-- ==== Sys2Proof/Word.lean ====
section
/-! DEFINITION. Word.lean: the widths of the engine's values (spec/00_scope.md R7, R8; spec/30_encoding.md R100). -/

namespace Sys2Proof

/-- A byte is 8 bits (R8). -/
abbrev Byte := BitVec 8

/-- `u16` (R8). -/
abbrev Half := BitVec 16

/-- `u32` (R8): command words, status words, backplane addresses, register values. -/
abbrev Word := BitVec 32

/-- The function field of a command word, bits 29:28 (R100). -/
abbrev FnCode := BitVec 2

/-- The address field of a command word, 17 bits (R100). -/
abbrev BusAddr := BitVec 17

/-- The length field of a command word, 11 bits (R100). -/
abbrev LenField := BitVec 11

end Sys2Proof
end

