-- ==== Sys2Proof/Config.lean ====
section
/-! DEFINITION. Config.lean: the parameters of spec/00_scope.md R7, the FIXED ones as constants, the OPEN ones as
one record, and the free values of the model (opaque: no proof can see them). -/

namespace Sys2Proof

/-- `FN_BUS`, `FN_BACKPLANE`, `FN_WLAN` = 0, 1, 2 (R102, decision D3). -/
def fnBus : FnCode := 0
@[inherit_doc fnBus] def fnBackplane : FnCode := 1
@[inherit_doc fnBus] def fnWlan : FnCode := 2

/-- `SDPCM_LEN`: size of the SDPCM header (R110). -/
def sdpcmLen : Nat := 12
/-- `CDC_LEN`: size of the CDC header (R120). -/
def cdcLen : Nat := 16
/-- `BDC_LEN`: size of the BDC header (R130). -/
def bdcLen : Nat := 4
/-- `DATA_PAD`: padding between SDPCM and BDC header on transmitted data frames (R207). -/
def dataPad : Nat := 2
/-- `BP_PAD`: response-delay bytes before the data of a backplane-function read (R153). -/
def bpPad : Nat := 4
/-- The size of a backplane window: offsets are `WINDOW_BITS` = 15 bits (R70). -/
def windowSize : Nat := 0x8000

/-- `WIRE_ORDER`: the byte order in which a command or status word crosses the bus port (R62). -/
inductive WireOrder where
  | le
  | be
deriving DecidableEq, Repr, Inhabited

/-- `CMD_VALID`, the "command enum" (R232), as plain data: every code, or a listed set of codes. Every
predicate on 32-bit codes is of the second form (log 26). -/
inductive CmdSet where
  | all
  | only (codes : List Word)
deriving DecidableEq, Repr

/-- `CMD_VALID(cmd)`. -/
def CmdSet.valid : CmdSet → Word → Bool
  | .all, _ => true
  | .only codes, c => codes.contains c

/-- The OPEN parameters (R7), fixed before the first operation (R44). -/
structure Config where
  wireOrder : WireOrder
  busMaxXfer : Nat
  bpMaxXfer : Nat
  bpFlag4B : BusAddr
  regWinHigh : BusAddr
  regWinMid : BusAddr
  regWinLow : BusAddr
  winBaseDefault : Word
  /-- address of `REG_INT_STATUS` in function `FN_BUS` -/
  intStatusAddr : BusAddr
  /-- width in bytes of `REG_INT_STATUS` -/
  intStatusWidth : Nat
  irqDataUnavailable : Word
  irqUnderflow : Word
  irqOverflow : Word
  irqF2PacketAvailable : Word
  stDataNotAvailable : Word
  stUnderflow : Word
  stOverflow : Word
  stF2RxReady : Word
  stF2PktAvailable : Word
  stF2PktLenShift : Nat
  stF2PktLenBits : Nat
  wlanFifoAddr : BusAddr
  ioctlBufSize : Nat
  iovarBufSize : Nat
  rxBufSize : Nat
  creditRetries : Nat
  creditSleep : Nat
  ioctlRetries : Nat
  ioctlSleep : Nat
  ifaceMax : Nat
  cmdValid : CmdSet
  wlcGetVar : Word
  wlcSetVar : Word
  bdcTxFlags : Byte
  ethertypeLink : List Byte
  eventOui : List Byte
deriving DecidableEq, Repr

/-- The suggested values of R7's table, with the retry counts of the programs of spec/95_test_vectors.md and sleeps
of one unit, for which R7 suggests none. PRESUMED and DESIGN CHOICE (log 2): only `State.reset` uses it; every
statement quantifies over `cfg`. -/
def Config.suggested : Config where
  wireOrder := .le
  busMaxXfer := 2047
  bpMaxXfer := 64
  bpFlag4B := 0x08000
  regWinHigh := 0x1000C
  regWinMid := 0x1000B
  regWinLow := 0x1000A
  winBaseDefault := 0x18000000
  intStatusAddr := 0x0004
  intStatusWidth := 2
  irqDataUnavailable := 0x0001
  irqUnderflow := 0x0002
  irqOverflow := 0x0004
  irqF2PacketAvailable := 0x0020
  stDataNotAvailable := 0x00000001
  stUnderflow := 0x00000002
  stOverflow := 0x00000004
  stF2RxReady := 0x00000020
  stF2PktAvailable := 0x00000100
  stF2PktLenShift := 9
  stF2PktLenBits := 11
  wlanFifoAddr := 0
  ioctlBufSize := 2048
  iovarBufSize := 2048
  rxBufSize := 2048
  creditRetries := 3
  creditSleep := 1
  ioctlRetries := 3
  ioctlSleep := 1
  ifaceMax := 2
  cmdValid := .all
  wlcGetVar := 262
  wlcSetVar := 263
  bdcTxFlags := 0x20
  ethertypeLink := [0x88, 0x6C]
  eventOui := [0x00, 0x10, 0x18]

/-- What the serialiser reports for one transaction (R9): it failed, or these are the bytes that came back on the
bus port, `rx ++ ser32(status)`. -/
inductive Answer where
  | fail
  | ok (bytes : List Byte)
deriving DecidableEq, Repr, Inhabited

/-- The three window-selector registers of the chip (spec/10_state.md R40). -/
structure Selectors where
  high : Byte
  mid : Byte
  low : Byte
deriving DecidableEq, Repr, Inhabited

/-- The engine's three byte buffers (spec/10_state.md R27 to R29). -/
inductive Buffer where
  | ioctl
  | iovar
  | rx
deriving DecidableEq, Repr

/-- FREE VALUE (log 3): the answer to a transaction after the end of the list `answers`, for the n-th free value drawn.
The chip is an oracle and any `Xfer` may fail (U10, U29). -/
opaque Config.freeAnswer : Nat → Answer

/-- FREE VALUE (log 18): what a byte of a buffer reads as before any operation has written it (U14). -/
opaque Config.powerOnByte : Buffer → Nat → Byte

/-- FREE VALUE (log 19): what the chip's selector registers hold after a failed write to them: nothing is known of a
failed transaction's effect on the chip (R9). -/
opaque Config.freeSelectors : Nat → Selectors

end Sys2Proof
end

