-- ==== Sys2Proof/Syntax.lean ====
section
/-! DEFINITION. Syntax.lean: the wire formats as records (spec/30_encoding.md) and the instructions: one constructor of
`Instr` for each row of spec/opcode_table.json. -/

namespace Sys2Proof

/-- The five fields of a command word (R100). -/
structure CommandWord where
  write : Bool
  autoinc : Bool
  fn : FnCode
  addr : BusAddr
  len : LenField
deriving DecidableEq, Repr

/-- The decoded view of a status word (R105). -/
structure StatusView where
  dataNa : Bool
  underflow : Bool
  overflow : Bool
  f2Ready : Bool
  pktAvail : Bool
  pktLen : Nat
deriving DecidableEq, Repr

/-- The SDPCM header, nine fields in 12 bytes (R110, conflict C1). -/
structure SdpcmHeader where
  size : Half
  sizeCom : Half
  seq : Byte
  chanFlags : Byte
  nextLength : Byte
  headerLength : Byte
  flowCtl : Byte
  busCredit : Byte
  reserved : Half
deriving DecidableEq, Repr

/-- The CDC header, four words (R120). -/
structure CdcHeader where
  cmd : Word
  length : Word
  flags : Word
  status : Word
deriving DecidableEq, Repr

/-- The BDC header, four bytes (R130). -/
structure BdcHeader where
  flags : Byte
  priority : Byte
  flags2 : Byte
  dataOffset : Byte
deriving DecidableEq, Repr

/-- The operands of an SDPCM row of the table: an SDPCM header less its channel, which the row fixes (R112). -/
structure SdpcmForm where
  size : Half
  sizeCom : Half
  seq : Byte
  flags : BitVec 4
  nextLength : Byte
  headerLength : Byte
  flowCtl : Byte
  busCredit : Byte
  reserved : Half
deriving DecidableEq, Repr

/-- The header of a row with channel `chan`: `chanFlags` is the flags nibble and the channel (R112). -/
def SdpcmForm.header (f : SdpcmForm) (chan : BitVec 4) : SdpcmHeader where
  size := f.size
  sizeCom := f.sizeCom
  seq := f.seq
  chanFlags := f.flags ++ chan
  nextLength := f.nextLength
  headerLength := f.headerLength
  flowCtl := f.flowCtl
  busCredit := f.busCredit
  reserved := f.reserved

/-- The operands of a CDC row: a CDC header less its kind bit, which the row fixes (R122). `bit0` and `gap` are the
bits 0 and 11:2 of the flags word, which no rule gives a use. -/
structure CdcForm where
  cmd : Word
  length : Word
  bit0 : BitVec 1
  gap : BitVec 10
  iface : BitVec 4
  id : Half
  status : Word
deriving DecidableEq, Repr

/-- The header of a row with kind bit `kind` (R122): bits 31:16 the ID, 15:12 the interface, 1 the kind. -/
def CdcForm.header (f : CdcForm) (kind : BitVec 1) : CdcHeader where
  cmd := f.cmd
  length := f.length
  flags := f.id ++ f.iface ++ f.gap ++ kind ++ f.bit0
  status := f.status

/-- The instructions: the 21 host operations (R140), the eight command words (R100 to R102), the status word (R105),
the sixteen SDPCM channels (R112, R268), the two CDC kinds (R122) and the BDC header (R130).
Operands may hold values an operation refuses: the refusal is part of its meaning. -/
inductive Instr where
  | rdreg (fn : Byte) (addr : Word) (size : Nat)
  | wrreg (fn : Byte) (addr : Word) (size : Nat) (value : Word)
  | rdbytes (fn : Byte) (addr : Word) (n : Nat)
  | wrbytes (fn : Byte) (addr : Word) (bytes : List Byte)
  | setwin (addr : Word)
  | bprd (addr : Word) (size : Nat)
  | bpwr (addr : Word) (size : Nat) (value : Word)
  | bprdbytes (addr : Word) (n : Nat)
  | bpwrbytes (addr : Word) (bytes : List Byte)
  | hascredit
  | txctl (body : List Byte)
  | txdata (iface : Nat) (frame : List Byte)
  | ioctlset (cmd : Word) (iface : Nat) (data : List Byte)
  | ioctlget (cmd : Word) (iface : Nat) (buffer : List Byte)
  | iovarset (name : List Byte) (iface : Nat) (value : List Byte)
  | iovarget (name : List Byte) (iface : Nat)
  | buspoll
  | rxone (len : Nat)
  | pollonce
  | setcb (present : Bool)
  | reset
  | cmdRdBus (autoinc : Bool) (addr : BusAddr) (len : LenField)
  | cmdRdBp (autoinc : Bool) (addr : BusAddr) (len : LenField)
  | cmdRdWlan (autoinc : Bool) (addr : BusAddr) (len : LenField)
  | cmdWrBus (autoinc : Bool) (addr : BusAddr) (len : LenField) (data : List Byte)
  | cmdWrBp (autoinc : Bool) (addr : BusAddr) (len : LenField) (data : List Byte)
  | cmdWrWlan (autoinc : Bool) (addr : BusAddr) (len : LenField) (data : List Byte)
  | cmdRdReserved (autoinc : Bool) (addr : BusAddr) (len : LenField)
  | cmdWrReserved (autoinc : Bool) (addr : BusAddr) (len : LenField) (data : List Byte)
  | status (word : Word)
  | sdpcmControl (form : SdpcmForm) (rest : List Byte)
  | sdpcmEvent (form : SdpcmForm) (rest : List Byte)
  | sdpcmData (form : SdpcmForm) (rest : List Byte)
  | sdpcmUnknown3 (form : SdpcmForm) (rest : List Byte)
  | sdpcmUnknown4 (form : SdpcmForm) (rest : List Byte)
  | sdpcmUnknown5 (form : SdpcmForm) (rest : List Byte)
  | sdpcmUnknown6 (form : SdpcmForm) (rest : List Byte)
  | sdpcmUnknown7 (form : SdpcmForm) (rest : List Byte)
  | sdpcmUnknown8 (form : SdpcmForm) (rest : List Byte)
  | sdpcmUnknown9 (form : SdpcmForm) (rest : List Byte)
  | sdpcmUnknown10 (form : SdpcmForm) (rest : List Byte)
  | sdpcmUnknown11 (form : SdpcmForm) (rest : List Byte)
  | sdpcmUnknown12 (form : SdpcmForm) (rest : List Byte)
  | sdpcmUnknown13 (form : SdpcmForm) (rest : List Byte)
  | sdpcmUnknown14 (form : SdpcmForm) (rest : List Byte)
  | sdpcmUnknown15 (form : SdpcmForm) (rest : List Byte)
  | cdcGet (form : CdcForm) (payload : List Byte)
  | cdcSet (form : CdcForm) (payload : List Byte)
  | bdc (header : BdcHeader)
deriving DecidableEq, Repr

/-- Where the bytes of an instruction stand, the "format" of spec/opcode_table.json: rows of different formats share
bit patterns and are told apart only by this (log 17). -/
inductive Form where
  | hostOp
  | command
  | status
  | sdpcm
  | cdc
  | bdc
  /-- a name of R142 that is no operation of its own: 0 `frameAndSend`, 1 `SendEthernetFrame`, 2 `PollOnce` (log 28) -/
  | pseudo
deriving DecidableEq, Repr

/-- One submission: its format and its bytes, taken by value (spec/20_memory.md R83). -/
structure Request where
  form : Form
  bytes : List Byte
deriving DecidableEq, Repr

end Sys2Proof
end

