-- ==== Sys2Proof/Machine/Bytes.lean ====
section
/-! DEFINITION. Machine/Bytes.lean: byte strings, byte order and rounding (spec/00_scope.md R8; spec/20_memory.md R62 to R65). -/

namespace Sys2Proof.Machine

/-- `zeros(n)`. -/
def zeros (n : Nat) : List Byte := List.replicate n 0

/-- `roundup4(n) = (n + 3) & ~3`. -/
def roundup4 (n : Nat) : Nat := (n + 3) / 4 * 4

/-- `b[i]`; callers read inside `b`. -/
def byteAt (b : List Byte) (i : Nat) : Byte := b.getD i 0

/-- `b[i .. j)`. -/
def slice (b : List Byte) (i j : Nat) : List Byte := (b.drop i).take (j - i)

/-- The first `n` bytes of `b`, with zero bytes where `b` is shorter. -/
def fit (n : Nat) (b : List Byte) : List Byte := (b ++ zeros (n - b.length)).take n

/-- `d` zero-filled to a whole number of 32-bit words (R65). -/
def padWords (d : List Byte) : List Byte := d ++ zeros (roundup4 d.length - d.length)

/-- `v[8k+7 : 8k]`, byte `k` of a word. -/
def wordByte (v : Word) (k : Nat) : Byte := v.extractLsb' (8 * k) 8

/-- `le16(v)`. -/
def le16 (v : Half) : List Byte := [v.extractLsb' 0 8, v.extractLsb' 8 8]

/-- `le32(v)`. -/
def le32 (v : Word) : List Byte := [wordByte v 0, wordByte v 1, wordByte v 2, wordByte v 3]

/-- `be32(v)`. -/
def be32 (v : Word) : List Byte := [wordByte v 3, wordByte v 2, wordByte v 1, wordByte v 0]

/-- `LE16(b, i)`. -/
def getLe16 (b : List Byte) (i : Nat) : Half := byteAt b (i + 1) ++ byteAt b i

/-- `LE32(b, i)`. -/
def getLe32 (b : List Byte) (i : Nat) : Word :=
  byteAt b (i + 3) ++ byteAt b (i + 2) ++ byteAt b (i + 1) ++ byteAt b i

/-- `BE32(b, i)`, the inverse of `be32`. -/
def getBe32 (b : List Byte) (i : Nat) : Word :=
  byteAt b i ++ byteAt b (i + 1) ++ byteAt b (i + 2) ++ byteAt b (i + 3)

/-- `ser32(v)`: a command or status word on the bus port (R8, R62). -/
def ser32 : WireOrder → Word → List Byte
  | .le, v => le32 v
  | .be, v => be32 v

/-- `de32`, the inverse of `ser32`. -/
def de32 : WireOrder → List Byte → Word
  | .le, b => getLe32 b 0
  | .be, b => getBe32 b 0

/-- The unsigned number of a little-endian byte string, zero-extended to 32 bits (R63, R154). -/
def leValue (d : List Byte) : Word := getLe32 d 0

end Sys2Proof.Machine
end

