-- ==== Sys2Proof/Machine/Formats.lean ====
section
/-! DEFINITION. Machine/Formats.lean: assembling and taking apart the command word, the status word and the SDPCM, CDC
and BDC headers (spec/30_encoding.md R100 to R132). -/

namespace Sys2Proof.Machine

/-- `mkcmd` (R101): write 31, autoinc 30, fn 29:28, addr 27:11, len 10:0. -/
def mkcmd (write autoinc : Bool) (fn : FnCode) (addr : BusAddr) (len : LenField) : Word :=
  BitVec.ofBool write ++ BitVec.ofBool autoinc ++ fn ++ addr ++ len

/-- The inverse of `mkcmd` (R101). -/
def decCmd (w : Word) : CommandWord where
  write := w.getLsbD 31
  autoinc := w.getLsbD 30
  fn := w.extractLsb' 28 2
  addr := w.extractLsb' 11 17
  len := w.extractLsb' 0 11

/-- The decoded view of a status word at the configured positions (R105). -/
def decStatus (cfg : Config) (st : Word) : StatusView where
  dataNa := st &&& cfg.stDataNotAvailable != 0
  underflow := st &&& cfg.stUnderflow != 0
  overflow := st &&& cfg.stOverflow != 0
  f2Ready := st &&& cfg.stF2RxReady != 0
  pktAvail := st &&& cfg.stF2PktAvailable != 0
  pktLen := (st.toNat >>> cfg.stF2PktLenShift) % 2 ^ cfg.stF2PktLenBits

/-- `enc_sdpcm` (R115). -/
def encSdpcm (h : SdpcmHeader) : List Byte :=
  le16 h.size ++ le16 h.sizeCom ++
    [h.seq, h.chanFlags, h.nextLength, h.headerLength, h.flowCtl, h.busCredit] ++ le16 h.reserved

/-- `dec_sdpcm` (R115), for at least 12 bytes; it checks nothing. -/
def decSdpcm (b : List Byte) : SdpcmHeader where
  size := getLe16 b 0
  sizeCom := getLe16 b 2
  seq := byteAt b 4
  chanFlags := byteAt b 5
  nextLength := byteAt b 6
  headerLength := byteAt b 7
  flowCtl := byteAt b 8
  busCredit := byteAt b 9
  reserved := getLe16 b 10

/-- The integrity invariant `size = ~_16 sizeCom` (R111). -/
def sdpcmValid (h : SdpcmHeader) : Bool := h.size == ~~~h.sizeCom

/-- `channel = chanFlags[3:0]` (R112). -/
def sdpcmChannel (h : SdpcmHeader) : BitVec 4 := h.chanFlags.extractLsb' 0 4

/-- The operands of the table row a header belongs to (R112). -/
def sdpcmFormOf (h : SdpcmHeader) : SdpcmForm where
  size := h.size
  sizeCom := h.sizeCom
  seq := h.seq
  flags := h.chanFlags.extractLsb' 4 4
  nextLength := h.nextLength
  headerLength := h.headerLength
  flowCtl := h.flowCtl
  busCredit := h.busCredit
  reserved := h.reserved

/-- `mkflags(kind, iface, id)` (R122), unused bits 0. -/
def mkflags (kind : BitVec 1) (iface : BitVec 4) (id : Half) : Word :=
  id ++ iface ++ (0 : BitVec 10) ++ kind ++ (0 : BitVec 1)

/-- `kind_of` (R122): bit 1, 1 for a set. -/
def kindOf (f : Word) : BitVec 1 := f.extractLsb' 1 1

/-- `iface_of` (R122): bits 15:12. -/
def ifaceOf (f : Word) : BitVec 4 := f.extractLsb' 12 4

/-- `id_of` (R122): bits 31:16. -/
def idOf (f : Word) : Half := f.extractLsb' 16 16

/-- `enc_cdc` (R123). -/
def encCdc (c : CdcHeader) : List Byte := le32 c.cmd ++ le32 c.length ++ le32 c.flags ++ le32 c.status

/-- `dec_cdc` (R123), for at least 16 bytes. -/
def decCdc (b : List Byte) : CdcHeader where
  cmd := getLe32 b 0
  length := getLe32 b 4
  flags := getLe32 b 8
  status := getLe32 b 12

/-- The operands of the table row a CDC header belongs to (R122). -/
def cdcFormOf (c : CdcHeader) : CdcForm where
  cmd := c.cmd
  length := c.length
  bit0 := c.flags.extractLsb' 0 1
  gap := c.flags.extractLsb' 2 10
  iface := ifaceOf c.flags
  id := idOf c.flags
  status := c.status

/-- `enc_bdc` (R132). -/
def encBdc (h : BdcHeader) : List Byte := [h.flags, h.priority, h.flags2, h.dataOffset]

/-- `dec_bdc` (R132), for at least 4 bytes. -/
def decBdc (b : List Byte) : BdcHeader where
  flags := byteAt b 0
  priority := byteAt b 1
  flags2 := byteAt b 2
  dataOffset := byteAt b 3

/-- How far after the beginning of the BDC header the payload starts (R131). -/
def bdcPayloadStart (h : BdcHeader) : Nat := bdcLen + 4 * h.dataOffset.toNat

/-- An iovar's request payload `name ++ [0] ++ value` (R135). -/
def marshalIovar (name value : List Byte) : List Byte := name ++ 0 :: value

end Sys2Proof.Machine
end

