-- ==== Sys2Proof/Machine/State.lean ====
section
/-! DEFINITION. Machine/State.lean: the machine's state as plain data (spec/10_state.md), the results of operations
(spec/60_exceptions.md R300), the ports (spec/00_scope.md R4), the reasons a step can stop, and the state at power-on. -/

namespace Sys2Proof.Machine

/-- One of the engine's buffers: (address, byte) pairs, addresses strictly rising, only bytes an operation has written
(log 18). -/
abbrev Memory := List Host.Cell

/-- What an `InvalidArgument` result names (R300, code 14). -/
inductive Argument where
  | function
  | address
  | size
  | alignment
  | length
  | window
  | channel
  | interface
  | command
  | name
  | operation
deriving DecidableEq, Repr

/-- The errors `E(info)` an operation can end with (R300, codes 2, 4, 5, 7 to 9, 11 to 15). -/
inductive Err where
  | dataUnavailable
  /-- the command word of the transaction that failed (conflict C13) -/
  | busFailure (cmd : Word)
  | corruptHeader
  | malformedBdc
  | shortPacket
  | unknownChannel (channel : Nat)
  | creditTimeout
  | ioctlPollTimeout
  | chipError (status : Word)
  | invalidArgument (which : Argument)
  | bufferTooSmall
deriving DecidableEq, Repr

/-- The reasons of a `NoPacket` result (R263). -/
inductive Transient where
  | nothing
  | dataUnavailable
  | f2NotReady
deriving DecidableEq, Repr

/-- Why a packet was dropped (R272, R276). -/
inductive DropReason where
  | eventInvalid
  | corruptHeader
  | malformedBdc
deriving DecidableEq, Repr

/-- What parsing one packet gives (R264): the payload is `rx_buf[off .. off + n)`. -/
inductive Packet where
  | control (off n : Nat) (cdc : CdcHeader)
  | data (off n : Nat)
  | event (off n : Nat)
  | dropped (why : DropReason)
deriving DecidableEq, Repr

/-- The value of an `Ok` result (R140). -/
inductive Value where
  | unit
  | word (v : Word)
  | bytes (b : List Byte)
  | bool (b : Bool)
  /-- BUSPOLL: the length of the packet now in `rx_buf` -/
  | len (n : Nat)
  /-- IOCTLGET: `n` and the bytes -/
  | counted (n : Nat) (b : List Byte)
  /-- RXONE -/
  | packet (p : Packet)
  /-- the STATUS row -/
  | status (v : StatusView)
  /-- the BDC row: the header and where its payload starts -/
  | bdc (h : BdcHeader) (start : Nat)
  /-- a CDC row: the header and the bytes after it, matched to no request (R48) -/
  | cdc (c : CdcHeader) (payload : List Byte)
deriving DecidableEq, Repr

/-- What appears on the command port at the end of an operation (R10). -/
inductive Result where
  | ok (v : Value)
  | noPacket (why : Transient)
  | err (e : Err)
deriving DecidableEq, Repr

/-- The kinds of the diagnostic port (R308). -/
inductive LogKind where
  | corruptHeader
  | malformedBdc
  | wrongId
  | shortPacket
  | unknownChannel
  | bufferTooSmall
  | dataUnavailable
deriving DecidableEq, Repr

/-- The externally visible steps of an operation (R34), as they leave the engine's ports (R4). -/
inductive PortEvent where
  /-- one transaction: the bytes `ser32(cmd) ++ tx` out, and `rx ++ ser32(status)` back or nothing if it failed (R9) -/
  | xfer (out : List Byte) (back : Option (List Byte))
  | sleep (duration : Nat)
  | deliverEth (bytes : List Byte)
  | deliverEvt (bytes : List Byte)
  | log (kind : LogKind)
deriving DecidableEq, Repr

/-- The sequencer phase (R34). -/
inductive Phase where
  | idle
  /-- operation `op` runs and has completed `k` visible steps -/
  | run (op : Instr) (k : Nat)
deriving DecidableEq, Repr

/-- Why a step stops with a fault. -/
inductive Fault where
  /-- Raised by step when the submission's bytes end before the operands its selector asks for, or hold a boolean that
  is neither 0 nor 1: no operation of the spec has been submitted (log 9). Safe. -/
  | malformedRequest
deriving DecidableEq, Repr

/-- Why a step is refused. -/
inductive Refusal where
  /-- Raised by exec's arm of an instruction that has no meaning yet. Safe. -/
  | notModelled (mnemonic : String)
  /-- Raised by step when the configuration violates a constraint of R7 (U28; log 10). Safe. -/
  | illFormedConfig
deriving DecidableEq, Repr

/-- The whole machine. The first group is the configuration, the second the record `s` of R20, the third the chip's
selector registers (R40), the fourth the ports of R4 as plain data: the MODEL's own fields. -/
structure State where
  /-- the parameters (R7), constant over a run (log 1) -/
  cfg : Config
  /-- R21 -/
  lock : Bool
  /-- R22 -/
  win : Word
  /-- R23 -/
  winValid : Bool
  /-- R24 -/
  seq : Byte
  /-- R25 -/
  creditMax : Byte
  /-- R26 -/
  ioctlId : Half
  /-- R27 -/
  ioctlBuf : Memory
  /-- R28 -/
  iovarBuf : Memory
  /-- R29 -/
  rxBuf : Memory
  /-- R31 -/
  lastStatus : Word
  /-- R32 -/
  cbSet : Bool
  /-- R35 -/
  flagUnderflow : Bool
  /-- R35 -/
  flagOverflow : Bool
  /-- R34 -/
  phase : Phase
  /-- the chip's window-selector registers (R40, R46; log 19) -/
  chipSel : Selectors
  /-- submissions on the command port, in the order the lock admits them (R291, U12; log 7) -/
  requests : List Request
  /-- the result on the command port (R305) -/
  result : Option Result
  /-- the answers to the coming transactions, oldest first (R3c; log 3) -/
  answers : List Answer
  /-- how many free values have been drawn (log 3) -/
  draws : Nat
  /-- whether the host submits an operation from inside each coming delivery (R291; log 6) -/
  reentries : List Bool
  /-- what the output ports have seen, oldest first (R4; log 20) -/
  trace : List PortEvent
deriving DecidableEq, Repr

/-- Power-on (R50, R340): the values of R20's table with `cb_set = 0`; nothing in the buffers; the suggested
configuration (log 2); selector registers 0 (log 19); empty ports (log 3, 6, 7, 20). -/
def State.reset : State where
  cfg := Config.suggested
  lock := false
  win := 0
  winValid := true
  seq := 0
  creditMax := 0
  ioctlId := 0
  ioctlBuf := []
  iovarBuf := []
  rxBuf := []
  lastStatus := 0
  cbSet := false
  flagUnderflow := false
  flagOverflow := false
  phase := .idle
  chipSel := ⟨0, 0, 0⟩
  requests := []
  result := none
  answers := []
  draws := 0
  reentries := []
  trace := []

end Sys2Proof.Machine
end

