-- ==== Sys2Proof/Machine/Ops.lean ====
section
/-! DEFINITION. Machine/Ops.lean: the named operations over the state: buffers (spec/10_state.md R27 to R30), the lock and
the results of operations (spec/45_system_ops.md R290 to R292; spec/60_exceptions.md R305), the output ports, and the bus
primitives `Xfer`, `Txn`, `MemRead`, `MemWrite` (spec/00_scope.md R9; spec/40_bus_transport.md R150 to R153). -/

namespace Sys2Proof.Machine

/-! ### Procedures -/

/-- How a procedure ends before its last line: `raise E(info)` (R9), or a delivery from which the host has submitted an
operation, after which nothing more happens (R291). -/
inductive Stop where
  | raise (e : Err)
  | stuck
deriving DecidableEq, Repr

/-- The pseudocode of a rule: it reads and writes the state, and what it has written stays written when it stops
(R305). -/
abbrev Proc := EStateM Stop State

/-- `s`. -/
def readState : Proc State := fun s => .ok s s

/-- `s.f <- v`. -/
def update (f : State → State) : Proc Unit := fun s => .ok () (f s)

/-- Taking an exception, the one way an operation fails: `raise E(info)` (R305). Nothing is saved and nothing returns
(R306); `finish` produces the result and frees the lock. -/
def raise {α : Type} (e : Err) : Proc α := fun s => .error (.raise e) s

/-- `raise InvalidArgument(which)`. -/
def refuse {α : Type} (which : Argument) : Proc α := raise (.invalidArgument which)

/-- A check at the head of an operation (R303). -/
def guardArg (ok : Bool) (which : Argument) : Proc Unit := if ok then pure () else refuse which

/-- Run a procedure and hand its error to the caller as a value: what a wait loop absorbs (R307). -/
def attempt {α : Type} (p : Proc α) : Proc (Except Err α) := fun s =>
  match p s with
  | .ok a s' => .ok (.ok a) s'
  | .error (.raise e) s' => .ok (.error e) s'
  | .error .stuck s' => .error .stuck s'

/-! ### Buffers -/

/-- The byte a buffer holds at `a`, if an operation has written one. -/
def Memory.read (m : Memory) (a : Nat) : Option Byte := (m.find? (·.1 == a)).map (·.2)

/-- The cells of a byte string placed at `a`. -/
def cellsFrom (a : Nat) : List Byte → Memory
  | [] => []
  | b :: bs => (a, b) :: cellsFrom (a + 1) bs

/-- `m[a .. a + len(bs)) <- bs`. -/
def Memory.write (m : Memory) (a : Nat) (bs : List Byte) : Memory :=
  m.filter (·.1 < a) ++ cellsFrom a bs ++ m.filter (a + bs.length ≤ ·.1)

/-- The canonical form: addresses strictly rising. An unlisted address has never been written, which no listed byte
says, so no entry equals what an unlisted address reads as (log 18). -/
def Memory.wf : Memory → Bool
  | [] => true
  | c :: m => m.all (c.1 < ·.1) && Memory.wf m

/-- Every address is below `size`. -/
def Memory.within (m : Memory) (size : Nat) : Bool := m.all (·.1 < size)

/-- The buffer named `b`. -/
def State.buffer (s : State) : Buffer → Memory
  | .ioctl => s.ioctlBuf
  | .iovar => s.iovarBuf
  | .rx => s.rxBuf

/-- The size of the buffer named `b` (R27 to R29). -/
def State.bufferSize (s : State) : Buffer → Nat
  | .ioctl => s.cfg.ioctlBufSize
  | .iovar => s.cfg.iovarBufSize
  | .rx => s.cfg.rxBufSize

/-- `buf[a]`: a byte nothing has written is a free value (U14; log 18). -/
def State.bufByte (s : State) (b : Buffer) (a : Nat) : Byte :=
  (Memory.read (s.buffer b) a).getD (Config.powerOnByte b a)

/-- `buf[a .. a + n)`. -/
def State.bufSlice (s : State) (b : Buffer) (a : Nat) : Nat → List Byte
  | 0 => []
  | n + 1 => s.bufByte b a :: State.bufSlice s b (a + 1) n

/-- The state with `buf[0 .. len(bs)) <- bs`. -/
def State.storeBuffer (s : State) (b : Buffer) (bs : List Byte) : State :=
  match b with
  | .ioctl => { s with ioctlBuf := Memory.write s.ioctlBuf 0 bs }
  | .iovar => { s with iovarBuf := Memory.write s.iovarBuf 0 bs }
  | .rx => { s with rxBuf := Memory.write s.rxBuf 0 bs }

/-! ### Visible steps and the output ports -/

/-- One more visible step of the running operation. DESIGN CHOICE (log 5): `k` counts visible steps, as R34 says, and not
loop iterations, as decision D50 words it. -/
def Phase.tick : Phase → Phase
  | .idle => .idle
  | .run op k => .run op (k + 1)

/-- A visible step leaves the engine. -/
def State.emit (s : State) (e : PortEvent) : State :=
  { s with trace := s.trace ++ [e], phase := s.phase.tick }

/-- `Log(kind)`: the diagnostic port (R308). -/
def log (kind : LogKind) : Proc Unit := update (·.emit (.log kind))

/-- `Sleep(t)`: the timer port (R325). -/
def sleep (duration : Nat) : Proc Unit := update (·.emit (.sleep duration))

/-- `DeliverEth` or `DeliverEvt`, made while the lock is held. If the host submits an operation from inside it, that
operation waits for the lock, the delivery does not return, and the engine is stuck (R291, R356). DESIGN CHOICE (log 5):
the delivery that does not return counts in the `k` of the phase, though R34 speaks of completed steps. -/
def deliver (e : PortEvent) : Proc Unit := fun s =>
  match s.reentries with
  | [] => .ok () (s.emit e)
  | false :: rest => .ok () { s.emit e with reentries := rest }
  | true :: rest => .error .stuck { s.emit e with reentries := rest }

/-! ### The bus port -/

/-- The serialiser's and the chip's next answer: the oldest of `answers`, and after them a free value (R3; log 3). -/
def State.nextAnswer (s : State) : Answer × State :=
  match s.answers with
  | a :: rest => (a, { s with answers := rest })
  | [] => (Config.freeAnswer s.draws, { s with draws := s.draws + 1 })

/-- The byte a write command carries to backplane-function address `a`, if it covers it: `len` bytes, the address
incremented after each (R100, R104). DESIGN CHOICE (log 19), where the rules say that the source gives no answer:
the address runs on through the whole 17-bit field, past 0x7FFF too (R187, N32), and does not wrap, so bytes of a write
that runs past 0x1FFFF reach no register (R156); the zero bytes that fill the data phase to whole words are not stored (R65,
R157); byte `k` of the data phase is the one for `addr + k` in either wire order (R63, R155, N3) and at a misaligned `addr`
too (R66, N4). -/
def writtenByte (cmd : Word) (tx : List Byte) (a : BusAddr) : Option Byte :=
  let c := decCmd cmd
  if c.write && c.fn == fnBackplane && c.addr.toNat ≤ a.toNat && a.toNat < c.addr.toNat + c.len.toNat then
    some (byteAt tx (a.toNat - c.addr.toNat))
  else none

/-- The chip's selector registers after a transaction that did not fail (R40). DESIGN CHOICE (log 19): the chip takes
every write the serialiser reports good; R46 and R182 (e) name the silent failure, which is left out. -/
def State.chipWrites (s : State) (cmd : Word) (tx : List Byte) : State :=
  { s with chipSel :=
    { high := (writtenByte cmd tx s.cfg.regWinHigh).getD s.chipSel.high
      mid := (writtenByte cmd tx s.cfg.regWinMid).getD s.chipSel.mid
      low := (writtenByte cmd tx s.cfg.regWinLow).getD s.chipSel.low } }

/-- The chip's selector registers after a failed transaction: those it would have written are free values. DESIGN CHOICE
(log 19): a failed read, and a failed write of other addresses, leave them as they were, though nothing is known of a failed
transaction's effect on the chip (R9). -/
def State.chipUnknown (s : State) (cmd : Word) (tx : List Byte) : State :=
  let free := Config.freeSelectors s.draws
  { s with
    draws := s.draws + 1
    chipSel :=
    { high := if (writtenByte cmd tx s.cfg.regWinHigh).isSome then free.high else s.chipSel.high
      mid := if (writtenByte cmd tx s.cfg.regWinMid).isSome then free.mid else s.chipSel.mid
      low := if (writtenByte cmd tx s.cfg.regWinLow).isSome then free.low else s.chipSel.low } }

/-- `Xfer(cmd, tx, rxn)` (R9, R106): `ser32(cmd) ++ tx` goes out; `rxn` bytes and `ser32(status)` come back, or the
transaction fails. -/
def xfer (cmd : Word) (tx : List Byte) (rxn : Nat) : Proc (Option (List Byte × Word)) := fun s =>
  let out := ser32 s.cfg.wireOrder cmd ++ tx
  match s.nextAnswer with
  | (.fail, s) => .ok none ((s.chipUnknown cmd tx).emit (.xfer out none))
  | (.ok raw, s) =>
    let back := fit (rxn + 4) raw
    .ok (some (back.take rxn, de32 s.cfg.wireOrder (back.drop rxn)))
      ((s.chipWrites cmd tx).emit (.xfer out (some back)))

/-- `Txn` (R150): the only place that calls `Xfer`. A failed transaction leaves `last_status` as it was. -/
def txn (cmd : Word) (tx : List Byte) (rxn : Nat) : Proc (List Byte × Word) := do
  match ← xfer cmd tx rxn with
  | none => raise (.busFailure cmd)
  | some (rx, st) =>
    update ({ · with lastStatus := st })
    return (rx, st)

/-- The padding bytes before the data of a read (R153). -/
def readPad (fn : FnCode) : Nat := if fn = fnBackplane then bpPad else 0

/-- `MemRead(fn, addr, n)` (R151), for `fn` 0 to 2 and `n` 1 to 2047. -/
def memRead (fn : FnCode) (addr : BusAddr) (n : Nat) : Proc (List Byte) := do
  let s ← readState
  let (rx, st) ← txn (mkcmd false true fn addr (BitVec.ofNat 11 n)) [] (readPad fn + roundup4 n)
  if (decStatus s.cfg st).dataNa then raise .dataUnavailable
  return slice rx (readPad fn) (readPad fn + n)

/-- `MemWrite(fn, addr, n, d)` (R152), for `len(d) = n`. -/
def memWrite (fn : FnCode) (addr : BusAddr) (d : List Byte) : Proc Unit := do
  let _ ← txn (mkcmd true true fn addr (BitVec.ofNat 11 d.length)) (padWords d) 0

/-! ### The lock and the operation around a body -/

/-- Acquire (R291); the command port shows no result while the operation runs (R292). -/
def State.acquire (s : State) (i : Instr) : State :=
  { s with lock := true, phase := .run i 0, result := none }

/-- Release (R292), and the result on the command port (R305). -/
def State.release (s : State) (r : Result) : State :=
  { s with phase := .idle, lock := false, result := some r }

/-- The end of an operation: every exit releases the lock (R292) but a delivery the host never returned from (R291). -/
def finish : EStateM.Result Stop State Result → State
  | .ok r s => s.release r
  | .error (.raise e) s => s.release (.err e)
  | .error .stuck s => s

/-- Every operation is acquire, body, release (R290). While the lock is held the operation waits and nothing changes
(R291; log 6). -/
def operation (i : Instr) (body : Proc Result) (s : State) : Host.Outcome State Fault Refusal :=
  .next (if s.lock then s else finish (body (s.acquire i)))

/-- A body that returns a value. -/
def returning (body : Proc Value) : Proc Result := do
  let v ← body
  return .ok v

/-- A body that returns nothing. -/
def returningUnit (body : Proc Unit) : Proc Result := do
  body
  return .ok .unit

end Sys2Proof.Machine
end

