-- ==== Sys2Proof/Machine/Flags.lean ====
section
/-! DEFINITION. Machine/Flags.lean: the sticky flags (spec/10_state.md R35), the credit test (spec/42_sdpcm_framer.md R201) and
the tests on the interrupt-status value (spec/10_state.md R41). There are no condition codes (R35). -/

namespace Sys2Proof.Machine

/-- `irq & mask != 0` (R41). -/
def irqHas (irq mask : Word) : Bool := irq &&& mask != 0

/-- The sticky flags after BUSPOLL has read the interrupt-status value `irq` (R35, R261). -/
def State.noteIrq (s : State) (irq : Word) : State :=
  { s with
    flagUnderflow := s.flagUnderflow || irqHas irq s.cfg.irqUnderflow
    flagOverflow := s.flagOverflow || irqHas irq s.cfg.irqOverflow }

/-- `HasCredit()` on the two counters (R201, R202). -/
def hasCredit (seq creditMax : Byte) : Bool :=
  seq != creditMax && (creditMax - seq) &&& 0x80 == 0

end Sys2Proof.Machine
end

