-- ==== Sys2Proof/Machine/Operands.lean ====
section
/-! DEFINITION. Machine/Operands.lean: the operand checks at the head of the operations, and the operands computed from
them: bus addresses in the backplane window and register bytes. -/

namespace Sys2Proof.Machine

/-- `fn` in 0, 1, 2, else `InvalidArgument(function)` (R102, R154). -/
def checkFunction (fn : Byte) : Proc Unit := guardArg (fn.toNat < 3) .function

/-- `addr` below 2^17, else `InvalidArgument(address)` (R154). -/
def checkAddress (addr : Word) : Proc Unit := guardArg (addr.toNat < 2 ^ 17) .address

/-- `size` in 1, 2, 4, else `InvalidArgument(size)` (R154, decision D6). -/
def checkSize (size : Nat) : Proc Unit := guardArg ([1, 2, 4].contains size) .size

/-- `1 ≤ n ≤ max`, else `InvalidArgument(length)` (R104, R158, R187). -/
def checkLength (n max : Nat) : Proc Unit := guardArg (1 ≤ n && n ≤ max) .length

/-- `addr mod size = 0`, else `InvalidArgument(alignment)` (R66, R185). -/
def checkAligned (addr : Word) (size : Nat) : Proc Unit := guardArg (addr.toNat % size == 0) .alignment

/-- `(addr & 0x7FFF) + n ≤ 0x8000`, else `InvalidArgument(window)` (R66, R187). -/
def checkWindow (addr : Word) (n : Nat) : Proc Unit :=
  guardArg ((addr &&& 0x7FFF).toNat + n ≤ windowSize) .window

/-- The three checks of RDREG and WRREG, in order (R154). -/
def checkRegister (fn : Byte) (addr : Word) (size : Nat) : Proc Unit := do
  checkFunction fn
  checkAddress addr
  checkSize size

/-- The three checks of RDBYTES and WRBYTES, in order (R156). -/
def checkBlock (fn : Byte) (addr : Word) (n : Nat) : Proc Unit := do
  checkFunction fn
  checkAddress addr
  checkLength n (← readState).cfg.busMaxXfer

/-- The two checks of BPRD and BPWR, in order (R185). -/
def checkBackplaneRegister (addr : Word) (size : Nat) : Proc Unit := do
  checkSize size
  checkAligned addr size

/-- The two checks of BPRDBYTES and BPWRBYTES, in order (R188). -/
def checkBackplaneBlock (addr : Word) (n : Nat) : Proc Unit := do
  checkLength n (← readState).cfg.bpMaxXfer
  checkWindow addr n

/-- `iface ≤ IFACE_MAX`, else `InvalidArgument(interface)` (R232). -/
def checkInterface (iface : Nat) : Proc Unit := do
  guardArg (iface ≤ (← readState).cfg.ifaceMax) .interface

/-- `CMD_VALID(cmd)`, else `InvalidArgument(command)` (R232). -/
def checkCommand (cmd : Word) : Proc Unit := do
  guardArg ((← readState).cfg.cmdValid.valid cmd) .command

/-- A non-empty name without a zero byte, else `InvalidArgument(name)` (R244). -/
def checkName (name : List Byte) : Proc Unit := guardArg (name != [] && !name.contains 0) .name

/-- The function code of a checked operand (R102). -/
def fnOf (fn : Byte) : FnCode := fn.setWidth 2

/-- The 17-bit address of a checked operand. -/
def busAddrOf (addr : Word) : BusAddr := addr.setWidth 17

/-- `le32(value)[0 .. size)` (R155): the bits above `8 * size` are dropped. -/
def registerBytes (value : Word) (size : Nat) : List Byte := (le32 value).take size

/-- `W(a) = a & 0xFFFF8000` (R70). -/
def windowOf (a : Word) : Word := a &&& 0xFFFF8000

/-- `O(a) = a & 0x7FFF` (R70), as the address of a block access (R184). -/
def blockOffset (a : Word) : BusAddr := busAddrOf (a &&& 0x7FFF)

/-- `off(a, n)` of a register access (R184): a 4-byte access carries `BP_FLAG_4B`. -/
def registerOffset (cfg : Config) (a : Word) (size : Nat) : BusAddr :=
  blockOffset a ||| (if size = 4 then cfg.bpFlag4B else 0)

end Sys2Proof.Machine
end

