-- ==== Sys2Proof/Machine/Receive.lean ====
section
/-! DEFINITION. Machine/Receive.lean: the receive path and BUSPOLL, RXONE, POLLONCE, SETCB (spec/44_rx_dispatcher.md). -/

namespace Sys2Proof.Machine

/-! ### The bus poll -/

/-- What a bus poll finds: nothing now, or a packet of `len` bytes in `rx_buf`. -/
inductive Polled where
  | noPacket (why : Transient)
  | packet (len : Nat)
deriving DecidableEq, Repr

/-- `MemRead` where DataUnavailable is an answer (`none`) and not an error (R261, R262). -/
def tryRead (fn : FnCode) (addr : BusAddr) (n : Nat) : Proc (Option (List Byte)) := do
  match ← attempt (memRead fn addr n) with
  | .ok d => return some d
  | .error .dataUnavailable => return none
  | .error e => raise e

/-- A packet longer than a transfer or than the receive buffer is not read (R262, U30). -/
def rxTooLong (cfg : Config) (len : Nat) : Bool := cfg.busMaxXfer < len || cfg.rxBufSize < len

/-- `Log(BufferTooSmall) ; raise BufferTooSmall` (R262). -/
def rejectTooLong {α : Type} : Proc α := do
  log .bufferTooSmall
  raise .bufferTooSmall

/-- Step 2 of the bus poll (R262): length from the status word of step 1, then the packet. -/
def fetchPacket : Proc Polled := do
  let s ← readState
  let st := decStatus s.cfg s.lastStatus
  if !st.f2Ready then return .noPacket .f2NotReady
  else if !st.pktAvail || st.pktLen == 0 then return .noPacket .nothing
  else if rxTooLong s.cfg st.pktLen then rejectTooLong
  else
    match ← tryRead fnWlan s.cfg.wlanFifoAddr st.pktLen with
    | none => return .noPacket .dataUnavailable
    | some d =>
      update (·.storeBuffer .rx d)
      return .packet st.pktLen

/-- `BusPoll()` (R260): step 1 (R261), then step 2. -/
def busPoll : Proc Polled := do
  let s ← readState
  match ← tryRead fnBus s.cfg.intStatusAddr s.cfg.intStatusWidth with
  | none => return .noPacket .dataUnavailable
  | some d =>
    let irq := leValue d
    update (·.noteIrq irq)
    if irqHas irq s.cfg.irqDataUnavailable then log .dataUnavailable
    if irqHas irq s.cfg.irqF2PacketAvailable then fetchPacket
    else return .noPacket .nothing

/-! ### Parsing and classifying one packet -/

/-- Control (R269). -/
def parseControl (h : SdpcmHeader) (b : List Byte) : Proc Packet :=
  let off := h.headerLength.toNat + cdcLen
  if h.size.toNat < off then raise .shortPacket
  else return .control off (h.size.toNat - off) (decCdc (slice b h.headerLength.toNat off))

/-- The payload slice of a data or event frame (R270, R271). -/
def bdcPayload (h : SdpcmHeader) (b : List Byte) : Proc (Nat × Nat) :=
  let hl := h.headerLength.toNat
  let off := hl + bdcPayloadStart (decBdc (slice b hl (hl + bdcLen)))
  if h.size.toNat < hl + bdcLen then raise .shortPacket
  else if h.size.toNat < off then raise .malformedBdc
  else return (off, h.size.toNat - off)

/-- The marker test on an event payload `p` (R136, R272). -/
def eventMarked (cfg : Config) (p : List Byte) : Bool :=
  22 ≤ p.length && slice p 12 14 == cfg.ethertypeLink && slice p 19 22 == cfg.eventOui

/-- Data (R270). -/
def parseData (h : SdpcmHeader) (b : List Byte) : Proc Packet := do
  let (off, n) ← bdcPayload h b
  return .data off n

/-- Async event (R271, R272). -/
def parseEvent (h : SdpcmHeader) (b : List Byte) : Proc Packet := do
  let (off, n) ← bdcPayload h b
  if eventMarked (← readState).cfg (slice b off (off + n)) then return .event off n
  else return .dropped .eventInvalid

/-- Classification by channel (R268). -/
def classify (h : SdpcmHeader) (b : List Byte) : Proc Packet :=
  match (sdpcmChannel h).toNat with
  | 0 => parseControl h b
  | 1 => parseEvent h b
  | 2 => parseData h b
  | c => raise (.unknownChannel c)

/-- `RxOne(len)` (R264): its checks in order, the credit update (R266) right after the validity test. -/
def rxOne (len : Nat) : Proc Packet := do
  let b := (← readState).bufSlice .rx 0 len
  let h := decSdpcm b
  if len < sdpcmLen then raise .shortPacket
  if !sdpcmValid h then raise .corruptHeader
  update ({ · with creditMax := h.busCredit })
  if h.headerLength.toNat < sdpcmLen then raise .corruptHeader
  if h.size.toNat < sdpcmLen || len < h.size.toNat then raise .shortPacket
  classify h b

/-! ### Routing -/

/-- The outcome of `PollAndDispatch`. -/
inductive PollOutcome where
  | noPacket (why : Transient)
  | packet (p : Packet)
  | err (e : Err)
deriving DecidableEq, Repr

/-- Where a parsed packet goes (R276): data to the Ethernet delivery port if a callback is registered, a validated event
to the event delivery port, a control packet to the caller. -/
def route (p : Packet) : Proc Unit := do
  let s ← readState
  match p with
  | .data off n => if s.cbSet then deliver (.deliverEth (s.bufSlice .rx off n))
  | .event off n => deliver (.deliverEvt (s.bufSlice .rx off n))
  | .control _ _ _ => return
  | .dropped _ => return

/-- `PollAndDispatch()` (R276). -/
def pollAndDispatch : Proc PollOutcome := do
  match ← attempt busPoll with
  | .error e => return .err e
  | .ok (.noPacket why) => return .noPacket why
  | .ok (.packet len) =>
    match ← attempt (rxOne len) with
    | .ok p =>
      route p
      return .packet p
    | .error .corruptHeader =>
      log .corruptHeader
      return .packet (.dropped .corruptHeader)
    | .error .malformedBdc =>
      log .malformedBdc
      return .packet (.dropped .malformedBdc)
    | .error (.unknownChannel c) =>
      log .unknownChannel
      return .err (.unknownChannel c)
    | .error .shortPacket =>
      log .shortPacket
      return .err .shortPacket
    | .error e => return .err e

/-! ### The operations -/

/-- BUSPOLL (R260). -/
def execBuspoll (s : State) : Host.Outcome State Fault Refusal :=
  operation .buspoll (do
    match ← busPoll with
    | .noPacket why => return .noPacket why
    | .packet len => return .ok (.len len)) s

/-- RXONE (R264). -/
def execRxone (len : Nat) (s : State) : Host.Outcome State Fault Refusal :=
  operation (.rxone len) (returning do
    guardArg (len ≤ (← readState).cfg.rxBufSize) .length
    let p ← rxOne len
    return .packet p) s

/-- POLLONCE (R278). -/
def execPollonce (s : State) : Host.Outcome State Fault Refusal :=
  operation .pollonce (returning do
    match ← pollAndDispatch with
    | .noPacket _ => return .bool false
    | .packet (.dropped _) => return .bool false
    | .packet _ => return .bool true
    | .err e => raise e) s

/-- SETCB (R279). -/
def execSetcb (present : Bool) (s : State) : Host.Outcome State Fault Refusal :=
  operation (.setcb present) (returningUnit (update ({ · with cbSet := present }))) s

end Sys2Proof.Machine
end

