-- ==== Sys2Proof/Machine/Framer.lean ====
section
/-! DEFINITION. Machine/Framer.lean: credit, header building and HASCREDIT, TXCTL, TXDATA (spec/42_sdpcm_framer.md). -/

namespace Sys2Proof.Machine

/-- `WaitCredit()` with `left` polls to go (R204): only a bus failure ends it early, every other outcome of a poll is
absorbed. -/
def waitCreditFor : Nat → Proc Unit
  | 0 => do
    let s ← readState
    if hasCredit s.seq s.creditMax then return else raise .creditTimeout
  | left + 1 => do
    let s ← readState
    if hasCredit s.seq s.creditMax then return
    else
      match ← pollAndDispatch with
      | .err (.busFailure c) => raise (.busFailure c)
      | _ =>
        sleep s.cfg.creditSleep
        waitCreditFor left

/-- `WaitCredit()`: at most `CREDIT_RETRIES` polls (R204). -/
def waitCredit : Proc Unit := do
  waitCreditFor (← readState).cfg.creditRetries

/-- The header of R206, carrying sequence number `seq`. -/
def txHeader (seq : Byte) (chan : Byte) (total headerLength : Nat) : SdpcmHeader where
  size := BitVec.ofNat 16 total
  sizeCom := ~~~(BitVec.ofNat 16 total)
  seq := seq
  chanFlags := chan
  nextLength := 0
  headerLength := BitVec.ofNat 8 headerLength
  flowCtl := 0
  busCredit := 0
  reserved := 0

/-- `BuildHeader(chan, total, hlen)` (R206): the sequence number is consumed here, modulo 256. -/
def buildHeader (chan : Byte) (total headerLength : Nat) : Proc SdpcmHeader := do
  let s ← readState
  update ({ · with seq := s.seq + 1 })
  return txHeader s.seq chan total headerLength

/-- Sending a finished frame (R209): one write to the WLAN function. -/
def sendFrame (frame : List Byte) : Proc Unit := do
  memWrite fnWlan (← readState).cfg.wlanFifoAddr frame

/-- The size checks of `TxCtl(body)` in the order of R211's pseudocode, which decides (R315, first sentence; log 21). -/
def checkControlSize (n : Nat) : Proc Unit := do
  let cfg := (← readState).cfg
  if n < cdcLen || cfg.ioctlBufSize < roundup4 (sdpcmLen + n) then raise .bufferTooSmall
  guardArg (sdpcmLen + n ≤ cfg.busMaxXfer) .length

/-- `TxCtl(body)` (R211). -/
def txCtl (body : List Byte) : Proc Unit := do
  let total := sdpcmLen + body.length
  checkControlSize body.length
  waitCredit
  let h ← buildHeader 0 total sdpcmLen
  update (·.storeBuffer .ioctl (padWords (encSdpcm h ++ body)))
  sendFrame ((← readState).bufSlice .ioctl 0 total)

/-- The BDC header of a transmitted data frame (R208). -/
def txBdc (cfg : Config) (iface : Nat) : BdcHeader where
  flags := cfg.bdcTxFlags
  priority := 0
  flags2 := BitVec.ofNat 8 iface
  dataOffset := 0

/-- The length of a data frame (R212). -/
def dataTotal (frame : List Byte) : Nat := sdpcmLen + dataPad + bdcLen + frame.length

/-- The bytes of a data frame (R138, R207, R212). -/
def dataFrame (cfg : Config) (h : SdpcmHeader) (iface : Nat) (frame : List Byte) : List Byte :=
  encSdpcm h ++ zeros dataPad ++ encBdc (txBdc cfg iface) ++ frame

/-- `TxData(iface, frame)` (R212). -/
def txData (iface : Nat) (frame : List Byte) : Proc Unit := do
  let cfg := (← readState).cfg
  checkInterface iface
  guardArg (frame.length != 0) .length
  guardArg (dataTotal frame ≤ cfg.busMaxXfer) .length
  waitCredit
  let h ← buildHeader 2 (dataTotal frame) (sdpcmLen + dataPad)
  sendFrame (dataFrame cfg h iface frame)

/-- HASCREDIT (R201). -/
def execHascredit (s : State) : Host.Outcome State Fault Refusal :=
  operation .hascredit (returning do
    let s ← readState
    return .bool (hasCredit s.seq s.creditMax)) s

/-- TXCTL (R211). -/
def execTxctl (body : List Byte) (s : State) : Host.Outcome State Fault Refusal :=
  operation (.txctl body) (returningUnit (txCtl body)) s

/-- TXDATA (R212). -/
def execTxdata (iface : Nat) (frame : List Byte) (s : State) : Host.Outcome State Fault Refusal :=
  operation (.txdata iface frame) (returningUnit (txData iface frame)) s

end Sys2Proof.Machine
end

