-- ==== Sys2Proof/Machine/Ioctl.lean ====
section
/-! DEFINITION. Machine/Ioctl.lean: the request/response correlator and IOCTLSET, IOCTLGET, IOVARSET, IOVARGET
(spec/43_ioctl_iovar.md). -/

namespace Sys2Proof.Machine

/-- The kind bit of a request (R122, R235). -/
def kindSet : BitVec 1 := 1
@[inherit_doc kindSet] def kindGet : BitVec 1 := 0

/-- The bytes of a request frame before its payload: the SDPCM and CDC headers (R233). -/
def requestOverhead : Nat := sdpcmLen + cdcLen

/-- The `InvalidArgument` checks of R232 and R233: `DoIoctl` makes them before that of `ioctl_buf` (R315 (a); log 22). -/
def checkIoctlArgs (cmd : Word) (iface : Nat) (payloadLen : Nat) : Proc Unit := do
  checkInterface iface
  checkCommand cmd
  guardArg (requestOverhead + payloadLen ≤ (← readState).cfg.busMaxXfer) .length

/-- The request frame fits `ioctl_buf`, else `BufferTooSmall` (R233). -/
def checkIoctlRoom (payloadLen : Nat) : Proc Unit := do
  if (← readState).cfg.ioctlBufSize < roundup4 (requestOverhead + payloadLen) then raise .bufferTooSmall

/-- The marshalled form fits `iovar_buf`, else `BufferTooSmall` (R233). -/
def checkIovarRoom (len : Nat) : Proc Unit := do
  if (← readState).cfg.iovarBufSize < len then raise .bufferTooSmall

/-- The CDC header of a request (R235). -/
def requestHeader (kind : BitVec 1) (cmd : Word) (iface : Nat) (id : Half) (payload : List Byte) : CdcHeader where
  cmd := cmd
  length := BitVec.ofNat 32 payload.length
  flags := mkflags kind (BitVec.ofNat 4 iface) id
  status := 0

/-- Increment the correlation ID (R234), then build and send the request (R235). -/
def sendRequest (kind : BitVec 1) (cmd : Word) (iface : Nat) (payload : List Byte) : Proc Unit := do
  update (fun s => { s with ioctlId := s.ioctlId + 1 })
  let id := (← readState).ioctlId
  txCtl (encCdc (requestHeader kind cmd iface id payload) ++ payload)

/-- The correlator's test of one control packet (R236, R237): true if it completes the wait; a wrong ID is logged and
the wait goes on; a non-zero status is a chip error. -/
def correlate (cdc : CdcHeader) : Proc Bool := do
  if idOf cdc.flags = (← readState).ioctlId then
    if cdc.status = 0 then return true else raise (.chipError cdc.status)
  else
    log .wrongId
    return false

/-- One poll of the response wait (R238): the payload, if the matching response has come. -/
def pollResponse : Proc (Option (List Byte)) := do
  match ← pollAndDispatch with
  | .err (.busFailure c) => raise (.busFailure c)
  | .packet (.control off n cdc) =>
    if ← correlate cdc then return some ((← readState).bufSlice .rx off n) else return none
  | _ => return none

/-- The response wait with `left` polls to go (R238). -/
def awaitResponseFor : Nat → Proc (List Byte)
  | 0 => raise .ioctlPollTimeout
  | left + 1 => do
    match ← pollResponse with
    | some payload => return payload
    | none =>
      sleep (← readState).cfg.ioctlSleep
      awaitResponseFor left

/-- A request and the wait for its response, after all checks (R238): at most `IOCTL_RETRIES` polls. -/
def exchange (kind : BitVec 1) (cmd : Word) (iface : Nat) (payload : List Byte) : Proc (List Byte) := do
  sendRequest kind cmd iface payload
  awaitResponseFor (← readState).cfg.ioctlRetries

/-- `DoIoctl(kind, cmd, iface, payload)` (R238). -/
def doIoctl (kind : BitVec 1) (cmd : Word) (iface : Nat) (payload : List Byte) : Proc (List Byte) := do
  checkIoctlArgs cmd iface payload.length
  checkIoctlRoom payload.length
  exchange kind cmd iface payload

/-- The body of IOVARSET and IOVARGET in the order of their pseudocode (R245, R246): the name, `iovar_buf`, the checks of
`DoIoctl`. The marshalled form is stored after those, since each is made before any state change (R232, R233; log 22). -/
def doIovar (kind : BitVec 1) (cmd : Word) (name : List Byte) (iface : Nat) (value : List Byte) :
    Proc (List Byte) := do
  let m := marshalIovar name value
  checkName name
  checkIovarRoom m.length
  checkIoctlArgs cmd iface m.length
  checkIoctlRoom m.length
  update (·.storeBuffer .iovar m)
  exchange kind cmd iface m

/-- IOCTLSET (R240): the response payload is dropped. -/
def execIoctlset (cmd : Word) (iface : Nat) (data : List Byte) (s : State) : Host.Outcome State Fault Refusal :=
  operation (.ioctlset cmd iface data) (returningUnit do
    let _ ← doIoctl kindSet cmd iface data) s

/-- IOCTLGET (R241): `n = min(len(buffer), len(resp))`. -/
def execIoctlget (cmd : Word) (iface : Nat) (buffer : List Byte) (s : State) :
    Host.Outcome State Fault Refusal :=
  operation (.ioctlget cmd iface buffer) (returning do
    let resp ← doIoctl kindGet cmd iface buffer
    let n := min buffer.length resp.length
    return .counted n (resp.take n)) s

/-- IOVARSET (R245). -/
def execIovarset (name : List Byte) (iface : Nat) (value : List Byte) (s : State) :
    Host.Outcome State Fault Refusal :=
  operation (.iovarset name iface value) (returningUnit do
    let _ ← doIovar kindSet (← readState).cfg.wlcSetVar name iface value) s

/-- IOVARGET (R246): the whole response payload. -/
def execIovarget (name : List Byte) (iface : Nat) (s : State) : Host.Outcome State Fault Refusal :=
  operation (.iovarget name iface) (returning do
    let resp ← doIovar kindGet (← readState).cfg.wlcGetVar name iface []
    return .bytes resp) s

end Sys2Proof.Machine
end

