-- ==== Sys2Proof/Machine/System.lean ====
section
/-! DEFINITION. Machine/System.lean: RESET (spec/45_system_ops.md R293). -/

namespace Sys2Proof.Machine

/-- What RESET writes (R50, R293); the buffers, the callback bit and the chip stay as they are. -/
def State.zeroed (s : State) : State :=
  { s with
    seq := 0
    creditMax := 0
    ioctlId := 0
    win := 0
    winValid := true
    lastStatus := 0
    flagUnderflow := false
    flagOverflow := false }

/-- RESET (R293). -/
def execReset (s : State) : Host.Outcome State Fault Refusal :=
  operation .reset (returningUnit (update State.zeroed)) s

end Sys2Proof.Machine
end

