-- ==== Sys2Proof/Machine/Transport.lean ====
section
/-! DEFINITION. Machine/Transport.lean: RDREG, WRREG, RDBYTES, WRBYTES (spec/40_bus_transport.md R154 to R157). -/

namespace Sys2Proof.Machine

/-- RDREG (R154). -/
def execRdreg (fn : Byte) (addr : Word) (size : Nat) (s : State) : Host.Outcome State Fault Refusal :=
  operation (.rdreg fn addr size) (returning do
    checkRegister fn addr size
    let d ← memRead (fnOf fn) (busAddrOf addr) size
    return .word (leValue d)) s

/-- WRREG (R155). -/
def execWrreg (fn : Byte) (addr : Word) (size : Nat) (value : Word) (s : State) :
    Host.Outcome State Fault Refusal :=
  operation (.wrreg fn addr size value) (returningUnit do
    checkRegister fn addr size
    memWrite (fnOf fn) (busAddrOf addr) (registerBytes value size)) s

/-- RDBYTES (R156). -/
def execRdbytes (fn : Byte) (addr : Word) (n : Nat) (s : State) : Host.Outcome State Fault Refusal :=
  operation (.rdbytes fn addr n) (returning do
    checkBlock fn addr n
    let d ← memRead (fnOf fn) (busAddrOf addr) n
    return .bytes d) s

/-- WRBYTES (R157). -/
def execWrbytes (fn : Byte) (addr : Word) (bytes : List Byte) (s : State) :
    Host.Outcome State Fault Refusal :=
  operation (.wrbytes fn addr bytes) (returningUnit do
    checkBlock fn addr bytes.length
    memWrite (fnOf fn) (busAddrOf addr) bytes) s

end Sys2Proof.Machine
end

