-- ==== Sys2Proof/Machine/Window.lean ====
section
/-! DEFINITION. Machine/Window.lean: SETWIN, BPRD, BPWR, BPRDBYTES, BPWRBYTES (spec/41_backplane_window.md R181 to R189). -/

namespace Sys2Proof.Machine

/-- One selector-register write of SETWIN: byte `k` of the window, only where it differs from the cache or the cache is
invalid (R182). `s` is the state on entry: all three tests use it. -/
def writeSelector (s : State) (w : Word) (reg : BusAddr) (k : Nat) : Proc Unit :=
  if !s.winValid || wordByte w k != wordByte s.win k then memWrite fnBackplane reg [wordByte w k]
  else pure ()

/-- If a selector write raised, the cache is invalidated and the error goes on (R182, R352). -/
def invalidating (p : Proc Unit) : Proc Unit := fun s =>
  match p s with
  | .ok u s' => .ok u s'
  | .error e s' => .error e { s' with winValid := false }

/-- `SetWindow(a)` (R182): high, mid, low in this order (R181). -/
def setWindow (a : Word) : Proc Unit := do
  let s ← readState
  let w := windowOf a
  invalidating do
    writeSelector s w s.cfg.regWinHigh 3
    writeSelector s w s.cfg.regWinMid 2
    writeSelector s w s.cfg.regWinLow 1
  update ({ · with win := w, winValid := true })

/-- SETWIN (R182). -/
def execSetwin (addr : Word) (s : State) : Host.Outcome State Fault Refusal :=
  operation (.setwin addr) (returningUnit (setWindow addr)) s

/-- BPRD (R185). -/
def execBprd (addr : Word) (size : Nat) (s : State) : Host.Outcome State Fault Refusal :=
  operation (.bprd addr size) (returning do
    checkBackplaneRegister addr size
    setWindow addr
    let d ← memRead fnBackplane (registerOffset (← readState).cfg addr size) size
    return .word (leValue d)) s

/-- BPWR (R186). -/
def execBpwr (addr : Word) (size : Nat) (value : Word) (s : State) : Host.Outcome State Fault Refusal :=
  operation (.bpwr addr size value) (returningUnit do
    checkBackplaneRegister addr size
    setWindow addr
    memWrite fnBackplane (registerOffset (← readState).cfg addr size) (registerBytes value size)) s

/-- BPRDBYTES (R188). -/
def execBprdbytes (addr : Word) (n : Nat) (s : State) : Host.Outcome State Fault Refusal :=
  operation (.bprdbytes addr n) (returning do
    checkBackplaneBlock addr n
    setWindow addr
    let d ← memRead fnBackplane (blockOffset addr) n
    return .bytes d) s

/-- BPWRBYTES (R189). -/
def execBpwrbytes (addr : Word) (bytes : List Byte) (s : State) : Host.Outcome State Fault Refusal :=
  operation (.bpwrbytes addr bytes) (returningUnit do
    checkBackplaneBlock addr bytes.length
    setWindow addr
    memWrite fnBackplane (blockOffset addr) bytes) s

end Sys2Proof.Machine
end

