-- ==== Sys2Proof/Machine/WireForms.lean ====
section
/-! DEFINITION. Machine/WireForms.lean: the rows of spec/opcode_table.json that are wire forms and not host operations: what
the engine's own rules do when it issues or meets one, run as an operation of its own (log 11). A host operation reaches
the same procedures through its own meaning. -/

namespace Sys2Proof.Machine

/-! ### Command words: one transaction (R151, R152; log 12) -/

/-- What no operation may put in a command word: a function code of 3 (R102), an auto-increment bit of 0 (R103, U4), a
length of 0 (R104). -/
def checkCommandWord (autoinc : Bool) (fn : FnCode) (len : LenField) : Proc Unit := do
  guardArg (fn != 3) .function
  guardArg autoinc .operation
  guardArg (len != 0) .length

/-- The read transaction of a command word (R151). -/
def runRead (autoinc : Bool) (fn : FnCode) (addr : BusAddr) (len : LenField) : Proc Value := do
  checkCommandWord autoinc fn len
  let d ← memRead fn addr len.toNat
  return .bytes d

/-- The write transaction of a command word, with the `len` data bytes that follow it (R152). -/
def runWrite (autoinc : Bool) (fn : FnCode) (addr : BusAddr) (len : LenField) (data : List Byte) : Proc Unit := do
  checkCommandWord autoinc fn len
  memWrite fn addr (fit len.toNat data)

/-- CMD.RD.BUS (R151). -/
def execCmdRdBus (autoinc : Bool) (addr : BusAddr) (len : LenField) (s : State) :
    Host.Outcome State Fault Refusal :=
  operation (.cmdRdBus autoinc addr len) (returning (runRead autoinc fnBus addr len)) s

/-- CMD.WR.BUS (R152). -/
def execCmdWrBus (autoinc : Bool) (addr : BusAddr) (len : LenField) (data : List Byte) (s : State) :
    Host.Outcome State Fault Refusal :=
  operation (.cmdWrBus autoinc addr len data) (returningUnit (runWrite autoinc fnBus addr len data)) s

/-- CMD.RD.BP (R151). -/
def execCmdRdBp (autoinc : Bool) (addr : BusAddr) (len : LenField) (s : State) :
    Host.Outcome State Fault Refusal :=
  operation (.cmdRdBp autoinc addr len) (returning (runRead autoinc fnBackplane addr len)) s

/-- CMD.WR.BP (R152). -/
def execCmdWrBp (autoinc : Bool) (addr : BusAddr) (len : LenField) (data : List Byte) (s : State) :
    Host.Outcome State Fault Refusal :=
  operation (.cmdWrBp autoinc addr len data) (returningUnit (runWrite autoinc fnBackplane addr len data)) s

/-- CMD.RD.WLAN (R151). -/
def execCmdRdWlan (autoinc : Bool) (addr : BusAddr) (len : LenField) (s : State) :
    Host.Outcome State Fault Refusal :=
  operation (.cmdRdWlan autoinc addr len) (returning (runRead autoinc fnWlan addr len)) s

/-- CMD.WR.WLAN (R152). -/
def execCmdWrWlan (autoinc : Bool) (addr : BusAddr) (len : LenField) (data : List Byte) (s : State) :
    Host.Outcome State Fault Refusal :=
  operation (.cmdWrWlan autoinc addr len data) (returningUnit (runWrite autoinc fnWlan addr len data)) s

/-- CMD.RD.RESERVED (R102). -/
def execCmdRdReserved (autoinc : Bool) (addr : BusAddr) (len : LenField) (s : State) :
    Host.Outcome State Fault Refusal :=
  operation (.cmdRdReserved autoinc addr len) (returning (runRead autoinc 3 addr len)) s

/-- CMD.WR.RESERVED (R102). -/
def execCmdWrReserved (autoinc : Bool) (addr : BusAddr) (len : LenField) (data : List Byte) (s : State) :
    Host.Outcome State Fault Refusal :=
  operation (.cmdWrReserved autoinc addr len data) (returningUnit (runWrite autoinc 3 addr len data)) s

/-! ### The status word (R105; log 13) -/

/-- STATUS: the transport records the word (R31, R150) and decodes it (R105). -/
def execStatus (word : Word) (s : State) : Host.Outcome State Fault Refusal :=
  operation (.status word) (returning do
    update ({ · with lastStatus := word })
    return .status (decStatus (← readState).cfg word)) s

/-! ### SDPCM frames (R264 to R272; log 14) -/

/-- A frame is received: it is stored in `rx_buf` as BUSPOLL stores one (R262), then parsed and classified (R264). -/
def receiveFrame (h : SdpcmHeader) (rest : List Byte) : Proc Value := do
  let frame := encSdpcm h ++ rest
  if rxTooLong (← readState).cfg frame.length then rejectTooLong
  else
    update (·.storeBuffer .rx frame)
    let p ← rxOne frame.length
    return .packet p

/-- SDPCM.CONTROL (R269). -/
def execSdpcmControl (form : SdpcmForm) (rest : List Byte) (s : State) : Host.Outcome State Fault Refusal :=
  operation (.sdpcmControl form rest) (returning (receiveFrame (form.header 0) rest)) s

/-- SDPCM.EVENT (R272). -/
def execSdpcmEvent (form : SdpcmForm) (rest : List Byte) (s : State) : Host.Outcome State Fault Refusal :=
  operation (.sdpcmEvent form rest) (returning (receiveFrame (form.header 1) rest)) s

/-- SDPCM.DATA (R270). -/
def execSdpcmData (form : SdpcmForm) (rest : List Byte) (s : State) : Host.Outcome State Fault Refusal :=
  operation (.sdpcmData form rest) (returning (receiveFrame (form.header 2) rest)) s

/-- SDPCM.UNKNOWN3 (R268). -/
def execSdpcmUnknown3 (form : SdpcmForm) (rest : List Byte) (s : State) : Host.Outcome State Fault Refusal :=
  operation (.sdpcmUnknown3 form rest) (returning (receiveFrame (form.header 3) rest)) s

/-- SDPCM.UNKNOWN4 (R268). -/
def execSdpcmUnknown4 (form : SdpcmForm) (rest : List Byte) (s : State) : Host.Outcome State Fault Refusal :=
  operation (.sdpcmUnknown4 form rest) (returning (receiveFrame (form.header 4) rest)) s

/-- SDPCM.UNKNOWN5 (R268). -/
def execSdpcmUnknown5 (form : SdpcmForm) (rest : List Byte) (s : State) : Host.Outcome State Fault Refusal :=
  operation (.sdpcmUnknown5 form rest) (returning (receiveFrame (form.header 5) rest)) s

/-- SDPCM.UNKNOWN6 (R268). -/
def execSdpcmUnknown6 (form : SdpcmForm) (rest : List Byte) (s : State) : Host.Outcome State Fault Refusal :=
  operation (.sdpcmUnknown6 form rest) (returning (receiveFrame (form.header 6) rest)) s

/-- SDPCM.UNKNOWN7 (R268). -/
def execSdpcmUnknown7 (form : SdpcmForm) (rest : List Byte) (s : State) : Host.Outcome State Fault Refusal :=
  operation (.sdpcmUnknown7 form rest) (returning (receiveFrame (form.header 7) rest)) s

/-- SDPCM.UNKNOWN8 (R268). -/
def execSdpcmUnknown8 (form : SdpcmForm) (rest : List Byte) (s : State) : Host.Outcome State Fault Refusal :=
  operation (.sdpcmUnknown8 form rest) (returning (receiveFrame (form.header 8) rest)) s

/-- SDPCM.UNKNOWN9 (R268). -/
def execSdpcmUnknown9 (form : SdpcmForm) (rest : List Byte) (s : State) : Host.Outcome State Fault Refusal :=
  operation (.sdpcmUnknown9 form rest) (returning (receiveFrame (form.header 9) rest)) s

/-- SDPCM.UNKNOWN10 (R268). -/
def execSdpcmUnknown10 (form : SdpcmForm) (rest : List Byte) (s : State) : Host.Outcome State Fault Refusal :=
  operation (.sdpcmUnknown10 form rest) (returning (receiveFrame (form.header 10) rest)) s

/-- SDPCM.UNKNOWN11 (R268). -/
def execSdpcmUnknown11 (form : SdpcmForm) (rest : List Byte) (s : State) : Host.Outcome State Fault Refusal :=
  operation (.sdpcmUnknown11 form rest) (returning (receiveFrame (form.header 11) rest)) s

/-- SDPCM.UNKNOWN12 (R268). -/
def execSdpcmUnknown12 (form : SdpcmForm) (rest : List Byte) (s : State) : Host.Outcome State Fault Refusal :=
  operation (.sdpcmUnknown12 form rest) (returning (receiveFrame (form.header 12) rest)) s

/-- SDPCM.UNKNOWN13 (R268). -/
def execSdpcmUnknown13 (form : SdpcmForm) (rest : List Byte) (s : State) : Host.Outcome State Fault Refusal :=
  operation (.sdpcmUnknown13 form rest) (returning (receiveFrame (form.header 13) rest)) s

/-- SDPCM.UNKNOWN14 (R268). -/
def execSdpcmUnknown14 (form : SdpcmForm) (rest : List Byte) (s : State) : Host.Outcome State Fault Refusal :=
  operation (.sdpcmUnknown14 form rest) (returning (receiveFrame (form.header 14) rest)) s

/-- SDPCM.UNKNOWN15 (R268). -/
def execSdpcmUnknown15 (form : SdpcmForm) (rest : List Byte) (s : State) : Host.Outcome State Fault Refusal :=
  operation (.sdpcmUnknown15 form rest) (returning (receiveFrame (form.header 15) rest)) s

/-! ### CDC and BDC headers (R122, R123, R270; log 15, 16) -/

/-- A control packet's CDC header outside an ioctl: it is decoded (R123), and as no wait is pending it matches nothing and
is discarded without a log or a state change (R48, R277). -/
def receiveCdc (c : CdcHeader) (payload : List Byte) : Proc Value := return .cdc c payload

/-- CDC.GET (R122). -/
def execCdcGet (form : CdcForm) (payload : List Byte) (s : State) : Host.Outcome State Fault Refusal :=
  operation (.cdcGet form payload) (returning (receiveCdc (form.header 0) payload)) s

/-- CDC.SET (R122). -/
def execCdcSet (form : CdcForm) (payload : List Byte) (s : State) : Host.Outcome State Fault Refusal :=
  operation (.cdcSet form payload) (returning (receiveCdc (form.header 1) payload)) s

/-- BDC (R130, R131): the header, and where the payload starts, counted from the header's first byte. -/
def execBdc (header : BdcHeader) (s : State) : Host.Outcome State Fault Refusal :=
  operation (.bdc header) (returning (pure (.bdc header (bdcPayloadStart header)))) s

end Sys2Proof.Machine
end

