-- ==== Sys2Proof/Machine/Dispatch.lean ====
section
/-! DEFINITION. Machine/Dispatch.lean: one arm for each constructor of Instr, a direct call of its meaning. -/

namespace Sys2Proof.Machine

/-- The meaning of an instruction. -/
def exec (i : Instr) (s : State) : Host.Outcome State Fault Refusal :=
  match i with
  | .rdreg fn addr size => Sys2Proof.Machine.execRdreg fn addr size s
  | .wrreg fn addr size value => Sys2Proof.Machine.execWrreg fn addr size value s
  | .rdbytes fn addr n => Sys2Proof.Machine.execRdbytes fn addr n s
  | .wrbytes fn addr bytes => Sys2Proof.Machine.execWrbytes fn addr bytes s
  | .setwin addr => Sys2Proof.Machine.execSetwin addr s
  | .bprd addr size => Sys2Proof.Machine.execBprd addr size s
  | .bpwr addr size value => Sys2Proof.Machine.execBpwr addr size value s
  | .bprdbytes addr n => Sys2Proof.Machine.execBprdbytes addr n s
  | .bpwrbytes addr bytes => Sys2Proof.Machine.execBpwrbytes addr bytes s
  | .hascredit => Sys2Proof.Machine.execHascredit s
  | .txctl body => Sys2Proof.Machine.execTxctl body s
  | .txdata iface frame => Sys2Proof.Machine.execTxdata iface frame s
  | .ioctlset cmd iface data => Sys2Proof.Machine.execIoctlset cmd iface data s
  | .ioctlget cmd iface buffer => Sys2Proof.Machine.execIoctlget cmd iface buffer s
  | .iovarset name iface value => Sys2Proof.Machine.execIovarset name iface value s
  | .iovarget name iface => Sys2Proof.Machine.execIovarget name iface s
  | .buspoll => Sys2Proof.Machine.execBuspoll s
  | .rxone len => Sys2Proof.Machine.execRxone len s
  | .pollonce => Sys2Proof.Machine.execPollonce s
  | .setcb present => Sys2Proof.Machine.execSetcb present s
  | .reset => Sys2Proof.Machine.execReset s
  | .cmdRdBus autoinc addr len => Sys2Proof.Machine.execCmdRdBus autoinc addr len s
  | .cmdRdBp autoinc addr len => Sys2Proof.Machine.execCmdRdBp autoinc addr len s
  | .cmdRdWlan autoinc addr len => Sys2Proof.Machine.execCmdRdWlan autoinc addr len s
  | .cmdWrBus autoinc addr len data => Sys2Proof.Machine.execCmdWrBus autoinc addr len data s
  | .cmdWrBp autoinc addr len data => Sys2Proof.Machine.execCmdWrBp autoinc addr len data s
  | .cmdWrWlan autoinc addr len data => Sys2Proof.Machine.execCmdWrWlan autoinc addr len data s
  | .cmdRdReserved autoinc addr len => Sys2Proof.Machine.execCmdRdReserved autoinc addr len s
  | .cmdWrReserved autoinc addr len data => Sys2Proof.Machine.execCmdWrReserved autoinc addr len data s
  | .status word => Sys2Proof.Machine.execStatus word s
  | .sdpcmControl form rest => Sys2Proof.Machine.execSdpcmControl form rest s
  | .sdpcmEvent form rest => Sys2Proof.Machine.execSdpcmEvent form rest s
  | .sdpcmData form rest => Sys2Proof.Machine.execSdpcmData form rest s
  | .sdpcmUnknown3 form rest => Sys2Proof.Machine.execSdpcmUnknown3 form rest s
  | .sdpcmUnknown4 form rest => Sys2Proof.Machine.execSdpcmUnknown4 form rest s
  | .sdpcmUnknown5 form rest => Sys2Proof.Machine.execSdpcmUnknown5 form rest s
  | .sdpcmUnknown6 form rest => Sys2Proof.Machine.execSdpcmUnknown6 form rest s
  | .sdpcmUnknown7 form rest => Sys2Proof.Machine.execSdpcmUnknown7 form rest s
  | .sdpcmUnknown8 form rest => Sys2Proof.Machine.execSdpcmUnknown8 form rest s
  | .sdpcmUnknown9 form rest => Sys2Proof.Machine.execSdpcmUnknown9 form rest s
  | .sdpcmUnknown10 form rest => Sys2Proof.Machine.execSdpcmUnknown10 form rest s
  | .sdpcmUnknown11 form rest => Sys2Proof.Machine.execSdpcmUnknown11 form rest s
  | .sdpcmUnknown12 form rest => Sys2Proof.Machine.execSdpcmUnknown12 form rest s
  | .sdpcmUnknown13 form rest => Sys2Proof.Machine.execSdpcmUnknown13 form rest s
  | .sdpcmUnknown14 form rest => Sys2Proof.Machine.execSdpcmUnknown14 form rest s
  | .sdpcmUnknown15 form rest => Sys2Proof.Machine.execSdpcmUnknown15 form rest s
  | .cdcGet form payload => Sys2Proof.Machine.execCdcGet form payload s
  | .cdcSet form payload => Sys2Proof.Machine.execCdcSet form payload s
  | .bdc header => Sys2Proof.Machine.execBdc header s

end Sys2Proof.Machine
end

