-- ==== Sys2Proof/Machine/Pseudo.lean ====
section
/-! DEFINITION. Machine/Pseudo.lean: the document's names that are not operations of their own, as the operations they
expand to (spec/30_encoding.md R142; spec/70_reset_and_hazards.md R353), and the written syntax of operations
(spec/30_encoding.md R141). -/

namespace Sys2Proof.Machine

/-- `frameAndSend(channelType, payload)`: TXCTL on the control channel, TXDATA on the data channel, none on any other,
which is refused with `InvalidArgument(channel)` (R142, decision D55). DESIGN CHOICE (log 28): R142 names no interface for
the data form; the caller gives it, as it gives TXDATA's (R212). -/
def frameAndSend (channelType iface : Nat) (payload : List Byte) : Option Instr :=
  match channelType with
  | 0 => some (.txctl payload)
  | 2 => some (.txdata iface payload)
  | _ => none

/-- `SendEthernetFrame(bytes)` (R142). -/
def sendEthernetFrame (bytes : List Byte) : Instr := .txdata 0 bytes

/-- `PollOnce()` (R142). -/
def pollOnce : Instr := .pollonce

/-- The window restore of a caller that assumes the well-known base (R353). -/
def restoreWindow (cfg : Config) : Instr := .setwin cfg.winBaseDefault

/-! ### Written syntax (R141) -/

/-- One hexadecimal digit. -/
def hexDigit (n : Nat) : Char := if n < 10 then Char.ofNat (48 + n) else Char.ofNat (55 + n)

/-- `k` hexadecimal digits of `n`. -/
def hexDigits : Nat → Nat → List Char
  | 0, _ => []
  | k + 1, n => hexDigits k (n / 16) ++ [hexDigit (n % 16)]

/-- A `0x` number of `k` digits. -/
def hexNumber (k n : Nat) : String := "0x" ++ String.ofList (hexDigits k n)

/-- A decimal number; `fuel` bounds its digits. -/
def decDigits : Nat → Nat → List Char
  | 0, _ => []
  | fuel + 1, n => if n < 10 then [hexDigit n] else decDigits fuel (n / 10) ++ [hexDigit (n % 10)]

/-- A decimal number of at most ten digits. -/
def decNumber (n : Nat) : String := String.ofList (decDigits 10 n)

/-- A byte string in brackets. -/
def hexBytes (b : List Byte) : String :=
  "[" ++ String.intercalate " " (b.map fun x => String.ofList (hexDigits 2 x.toNat)) ++ "]"

/-- A function: `BUS`, `BP`, `WLAN`, or the number of a code that names none. -/
def fnName (fn : Byte) : String :=
  match fn.toNat with
  | 0 => "BUS"
  | 1 => "BP"
  | 2 => "WLAN"
  | n => decNumber n

/-- `MNEMONIC operand, operand, ...`. -/
def written (mnemonic : String) (operands : List String) : String :=
  if operands.isEmpty then mnemonic else mnemonic ++ " " ++ String.intercalate ", " operands

/-- A host operation in the written syntax; the wire forms have none. -/
def assembly : Instr → Option String
  | .rdreg fn addr size => some (written "RDREG" [fnName fn, hexNumber 5 addr.toNat, decNumber size])
  | .wrreg fn addr size value =>
    some (written "WRREG" [fnName fn, hexNumber 5 addr.toNat, decNumber size, hexNumber 8 value.toNat])
  | .rdbytes fn addr n => some (written "RDBYTES" [fnName fn, hexNumber 5 addr.toNat, decNumber n])
  | .wrbytes fn addr bytes => some (written "WRBYTES" [fnName fn, hexNumber 5 addr.toNat, hexBytes bytes])
  | .setwin addr => some (written "SETWIN" [hexNumber 8 addr.toNat])
  | .bprd addr size => some (written "BPRD" [hexNumber 8 addr.toNat, decNumber size])
  | .bpwr addr size value =>
    some (written "BPWR" [hexNumber 8 addr.toNat, decNumber size, hexNumber 8 value.toNat])
  | .bprdbytes addr n => some (written "BPRDBYTES" [hexNumber 8 addr.toNat, decNumber n])
  | .bpwrbytes addr bytes => some (written "BPWRBYTES" [hexNumber 8 addr.toNat, hexBytes bytes])
  | .hascredit => some (written "HASCREDIT" [])
  | .txctl body => some (written "TXCTL" [hexBytes body])
  | .txdata iface frame => some (written "TXDATA" [decNumber iface, hexBytes frame])
  | .ioctlset cmd iface data =>
    some (written "IOCTLSET" [decNumber cmd.toNat, decNumber iface, hexBytes data])
  | .ioctlget cmd iface buffer =>
    some (written "IOCTLGET" [decNumber cmd.toNat, decNumber iface, hexBytes buffer])
  | .iovarset name iface value =>
    some (written "IOVARSET" [hexBytes name, decNumber iface, hexBytes value])
  | .iovarget name iface => some (written "IOVARGET" [hexBytes name, decNumber iface])
  | .buspoll => some (written "BUSPOLL" [])
  | .rxone len => some (written "RXONE" [decNumber len])
  | .pollonce => some (written "POLLONCE" [])
  | .setcb present => some (written "SETCB" [if present then "true" else "false"])
  | .reset => some (written "RESET" [])
  | .cmdRdBus _ _ _ | .cmdRdBp _ _ _ | .cmdRdWlan _ _ _ | .cmdRdReserved _ _ _ => none
  | .cmdWrBus _ _ _ _ | .cmdWrBp _ _ _ _ | .cmdWrWlan _ _ _ _ | .cmdWrReserved _ _ _ _ => none
  | .status _ | .bdc _ | .cdcGet _ _ | .cdcSet _ _ => none
  | .sdpcmControl _ _ | .sdpcmEvent _ _ | .sdpcmData _ _ | .sdpcmUnknown3 _ _ | .sdpcmUnknown4 _ _ => none
  | .sdpcmUnknown5 _ _ | .sdpcmUnknown6 _ _ | .sdpcmUnknown7 _ _ | .sdpcmUnknown8 _ _ => none
  | .sdpcmUnknown9 _ _ | .sdpcmUnknown10 _ _ | .sdpcmUnknown11 _ _ | .sdpcmUnknown12 _ _ => none
  | .sdpcmUnknown13 _ _ | .sdpcmUnknown14 _ _ | .sdpcmUnknown15 _ _ => none

end Sys2Proof.Machine
end

