-- ==== Sys2Proof/WellFormed.lean ====
section
/-! DEFINITION. WellFormed.lean: which configurations are legal (spec/00_scope.md R7, constraints column) and which
instructions have an encoding (the widths of the operand fields, log 8). Both are Bool, so `decide` runs on them. -/

namespace Sys2Proof

/-- Exactly one bit of `m` is 1. -/
def singleBit (m : Word) : Bool := m != 0 && m &&& (m - 1) == 0

/-- No two members are equal. -/
def distinct : List Word → Bool
  | [] => true
  | m :: ms => !ms.contains m && distinct ms

/-- The bits of the packet-length field of the status word (R105). -/
def Config.pktLenMask (c : Config) : Word :=
  BitVec.ofNat 32 ((2 ^ c.stF2PktLenBits - 1) <<< c.stF2PktLenShift)

/-- The interrupt-status masks (R41). -/
def Config.irqMasks (c : Config) : List Word :=
  [c.irqDataUnavailable, c.irqUnderflow, c.irqOverflow, c.irqF2PacketAvailable]

/-- The status-word masks (R105). -/
def Config.stMasks (c : Config) : List Word :=
  [c.stDataNotAvailable, c.stUnderflow, c.stOverflow, c.stF2RxReady, c.stF2PktAvailable]

/-- The constraints on the transfer bounds and the interrupt-status width. -/
def Config.wfTransfers (c : Config) : Bool :=
  1 ≤ c.busMaxXfer && c.busMaxXfer ≤ 2047 && 1 ≤ c.bpMaxXfer && c.bpMaxXfer ≤ c.busMaxXfer &&
    [1, 2, 4].contains c.intStatusWidth

/-- The constraints on the addresses of the backplane window. -/
def Config.wfWindow (c : Config) : Bool :=
  c.bpFlag4B &&& 0x7FFF == 0 && c.winBaseDefault &&& 0x7FFF == 0 &&
    c.regWinHigh != c.regWinMid && c.regWinHigh != c.regWinLow && c.regWinMid != c.regWinLow

/-- The constraints on bit positions: four distinct single bits; five distinct single bits outside the length field. -/
def Config.wfMasks (c : Config) : Bool :=
  c.irqMasks.all singleBit && distinct c.irqMasks && c.stMasks.all singleBit && distinct c.stMasks &&
    c.stF2PktLenShift + c.stF2PktLenBits ≤ 32 && c.stMasks.all (· &&& c.pktLenMask == 0)

/-- The constraints on buffer sizes. -/
def Config.wfBuffers (c : Config) : Bool :=
  28 ≤ c.ioctlBufSize && 28 ≤ c.rxBufSize && c.ioctlBufSize % 4 == 0 && c.iovarBufSize % 4 == 0 &&
    c.rxBufSize % 4 == 0

/-- The constraints on interfaces, command codes and event markers. -/
def Config.wfProtocol (c : Config) : Bool :=
  c.ifaceMax ≤ 15 && c.wlcGetVar != c.wlcSetVar && c.cmdValid.valid c.wlcGetVar &&
    c.cmdValid.valid c.wlcSetVar && c.ethertypeLink.length == 2 && c.eventOui.length == 3

/-- A legal configuration (R7): "a configuration that violates a constraint is refused by the model's well-formedness
check". -/
def Config.wf (c : Config) : Bool :=
  c.wfTransfers && c.wfWindow && c.wfMasks && c.wfBuffers && c.wfProtocol

/-- The operands fit the byte layout of Decode.lean: counts and byte-string lengths 16 bits, sizes and interfaces 8
bits, and a command word's data phase as long as its length field says (R104). -/
def Instr.wf : Instr → Bool
  | .rdreg _ _ size => size < 256
  | .wrreg _ _ size _ => size < 256
  | .rdbytes _ _ n => n < 65536
  | .wrbytes _ _ bytes => bytes.length < 65536
  | .setwin _ => true
  | .bprd _ size => size < 256
  | .bpwr _ size _ => size < 256
  | .bprdbytes _ n => n < 65536
  | .bpwrbytes _ bytes => bytes.length < 65536
  | .hascredit => true
  | .txctl body => body.length < 65536
  | .txdata iface frame => iface < 256 && frame.length < 65536
  | .ioctlset _ iface data => iface < 256 && data.length < 65536
  | .ioctlget _ iface buffer => iface < 256 && buffer.length < 65536
  | .iovarset name iface value => name.length < 65536 && iface < 256 && value.length < 65536
  | .iovarget name iface => name.length < 65536 && iface < 256
  | .buspoll => true
  | .rxone len => len < 65536
  | .pollonce => true
  | .setcb _ => true
  | .reset => true
  | .cmdRdBus _ _ _ => true
  | .cmdRdBp _ _ _ => true
  | .cmdRdWlan _ _ _ => true
  | .cmdWrBus _ _ len data => data.length == len.toNat
  | .cmdWrBp _ _ len data => data.length == len.toNat
  | .cmdWrWlan _ _ len data => data.length == len.toNat
  | .cmdRdReserved _ _ _ => true
  | .cmdWrReserved _ _ len data => data.length == len.toNat
  | .status _ => true
  | .sdpcmControl _ _ => true
  | .sdpcmEvent _ _ => true
  | .sdpcmData _ _ => true
  | .sdpcmUnknown3 _ _ => true
  | .sdpcmUnknown4 _ _ => true
  | .sdpcmUnknown5 _ _ => true
  | .sdpcmUnknown6 _ _ => true
  | .sdpcmUnknown7 _ _ => true
  | .sdpcmUnknown8 _ _ => true
  | .sdpcmUnknown9 _ _ => true
  | .sdpcmUnknown10 _ _ => true
  | .sdpcmUnknown11 _ _ => true
  | .sdpcmUnknown12 _ _ => true
  | .sdpcmUnknown13 _ _ => true
  | .sdpcmUnknown14 _ _ => true
  | .sdpcmUnknown15 _ _ => true
  | .cdcGet _ _ => true
  | .cdcSet _ _ => true
  | .bdc _ => true

end Sys2Proof
end

