-- ==== Sys2Proof/Decode.lean ====
section
/-! DEFINITION. Decode.lean: from bytes to an instruction or a rejection by name, and the encoder beside it. Command words,
status words and headers stand as spec/30_encoding.md lays them out; a host operation is its selector byte (R140)
followed by its operands in the order of R140, in the byte layout of log 8. -/

namespace Sys2Proof

open Sys2Proof.Machine

/-- Why bytes are not an instruction. -/
inductive DecodeError where
  /-- the selector is not in R140's table (R145 item 7) -/
  | unassigned (selector : Nat)
  /-- frameAndSend on a channel that the engine does not transmit on (R142) -/
  | channel (channelType : Nat)
  /-- the bytes end before the operands do -/
  | truncated
  /-- a boolean operand is neither 0 nor 1 -/
  | badOperand
deriving DecidableEq, Repr

/-- The next byte, and the bytes after it. -/
def takeByte : List Byte → Except DecodeError (Byte × List Byte)
  | [] => .error .truncated
  | b :: bs => .ok (b, bs)

/-- The next `n` bytes, and the bytes after them. -/
def takeBytes (n : Nat) (b : List Byte) : Except DecodeError (List Byte × List Byte) :=
  if n ≤ b.length then .ok (b.take n, b.drop n) else .error .truncated

/-- A 16-bit count, least significant byte first. -/
def takeCount (b : List Byte) : Except DecodeError (Nat × List Byte) := do
  let (d, b) ← takeBytes 2 b
  return ((getLe16 d 0).toNat, b)

/-- A 32-bit operand, least significant byte first. -/
def takeWord (b : List Byte) : Except DecodeError (Word × List Byte) := do
  let (d, b) ← takeBytes 4 b
  return (getLe32 d 0, b)

/-- A byte string: a 16-bit count and that many bytes. -/
def takeString (b : List Byte) : Except DecodeError (List Byte × List Byte) := do
  let (n, b) ← takeCount b
  takeBytes n b

/-- The operands of the host operation with this selector (R140). Bytes after the operands are no part of it. -/
def decodeOperands (selector : Nat) (b : List Byte) : Except DecodeError Instr := do
  match selector with
  | 0x01 =>
    let (fn, b) ← takeByte b
    let (addr, b) ← takeWord b
    let (size, _) ← takeByte b
    return .rdreg fn addr size.toNat
  | 0x02 =>
    let (fn, b) ← takeByte b
    let (addr, b) ← takeWord b
    let (size, b) ← takeByte b
    let (value, _) ← takeWord b
    return .wrreg fn addr size.toNat value
  | 0x03 =>
    let (fn, b) ← takeByte b
    let (addr, b) ← takeWord b
    let (n, _) ← takeCount b
    return .rdbytes fn addr n
  | 0x04 =>
    let (fn, b) ← takeByte b
    let (addr, b) ← takeWord b
    let (bytes, _) ← takeString b
    return .wrbytes fn addr bytes
  | 0x10 =>
    let (addr, _) ← takeWord b
    return .setwin addr
  | 0x11 =>
    let (addr, b) ← takeWord b
    let (size, _) ← takeByte b
    return .bprd addr size.toNat
  | 0x12 =>
    let (addr, b) ← takeWord b
    let (size, b) ← takeByte b
    let (value, _) ← takeWord b
    return .bpwr addr size.toNat value
  | 0x13 =>
    let (addr, b) ← takeWord b
    let (n, _) ← takeCount b
    return .bprdbytes addr n
  | 0x14 =>
    let (addr, b) ← takeWord b
    let (bytes, _) ← takeString b
    return .bpwrbytes addr bytes
  | 0x20 => return .hascredit
  | 0x21 =>
    let (body, _) ← takeString b
    return .txctl body
  | 0x22 =>
    let (iface, b) ← takeByte b
    let (frame, _) ← takeString b
    return .txdata iface.toNat frame
  | 0x30 =>
    let (cmd, b) ← takeWord b
    let (iface, b) ← takeByte b
    let (data, _) ← takeString b
    return .ioctlset cmd iface.toNat data
  | 0x31 =>
    let (cmd, b) ← takeWord b
    let (iface, b) ← takeByte b
    let (buffer, _) ← takeString b
    return .ioctlget cmd iface.toNat buffer
  | 0x32 =>
    let (name, b) ← takeString b
    let (iface, b) ← takeByte b
    let (value, _) ← takeString b
    return .iovarset name iface.toNat value
  | 0x33 =>
    let (name, b) ← takeString b
    let (iface, _) ← takeByte b
    return .iovarget name iface.toNat
  | 0x40 => return .buspoll
  | 0x41 =>
    let (len, _) ← takeCount b
    return .rxone len
  | 0x42 => return .pollonce
  | 0x43 =>
    let (present, _) ← takeByte b
    if present = 0 then return .setcb false
    else if present = 1 then return .setcb true
    else throw .badOperand
  | 0x50 => return .reset
  | _ => throw (.unassigned selector)

/-- A host operation: its selector byte and its operands (R140). -/
def decodeHostOp (b : List Byte) : Except DecodeError Instr := do
  let (selector, b) ← takeByte b
  decodeOperands selector.toNat b

/-- A command word in the configured wire order and, for a write, its data phase (R100, R106). -/
def decodeCommand (wo : WireOrder) (b : List Byte) : Except DecodeError Instr := do
  let (wire, b) ← takeBytes 4 b
  let c := decCmd (de32 wo wire)
  if c.write then
    let (data, _) ← takeBytes c.len.toNat b
    if c.fn = fnBus then return .cmdWrBus c.autoinc c.addr c.len data
    else if c.fn = fnBackplane then return .cmdWrBp c.autoinc c.addr c.len data
    else if c.fn = fnWlan then return .cmdWrWlan c.autoinc c.addr c.len data
    else return .cmdWrReserved c.autoinc c.addr c.len data
  else if c.fn = fnBus then return .cmdRdBus c.autoinc c.addr c.len
  else if c.fn = fnBackplane then return .cmdRdBp c.autoinc c.addr c.len
  else if c.fn = fnWlan then return .cmdRdWlan c.autoinc c.addr c.len
  else return .cmdRdReserved c.autoinc c.addr c.len

/-- The row of an SDPCM header, by its channel (R112, R268). -/
def sdpcmRow (chan : Nat) (f : SdpcmForm) (rest : List Byte) : Instr :=
  match chan with
  | 0 => .sdpcmControl f rest
  | 1 => .sdpcmEvent f rest
  | 2 => .sdpcmData f rest
  | 3 => .sdpcmUnknown3 f rest
  | 4 => .sdpcmUnknown4 f rest
  | 5 => .sdpcmUnknown5 f rest
  | 6 => .sdpcmUnknown6 f rest
  | 7 => .sdpcmUnknown7 f rest
  | 8 => .sdpcmUnknown8 f rest
  | 9 => .sdpcmUnknown9 f rest
  | 10 => .sdpcmUnknown10 f rest
  | 11 => .sdpcmUnknown11 f rest
  | 12 => .sdpcmUnknown12 f rest
  | 13 => .sdpcmUnknown13 f rest
  | 14 => .sdpcmUnknown14 f rest
  | _ => .sdpcmUnknown15 f rest

/-- A frame that opens with an SDPCM header (R110). -/
def decodeSdpcm (b : List Byte) : Except DecodeError Instr := do
  let (head, rest) ← takeBytes sdpcmLen b
  let h := decSdpcm head
  return sdpcmRow (sdpcmChannel h).toNat (sdpcmFormOf h) rest

/-- A CDC header and the payload after it (R120, R122). -/
def decodeCdc (b : List Byte) : Except DecodeError Instr := do
  let (head, payload) ← takeBytes cdcLen b
  let c := decCdc head
  if kindOf c.flags = 1 then return .cdcSet (cdcFormOf c) payload else return .cdcGet (cdcFormOf c) payload

/-- A name of R142 and its operands, in the byte layout of log 28: the instruction it expands to. -/
def decodePseudo (b : List Byte) : Except DecodeError Instr := do
  let (name, b) ← takeByte b
  match name.toNat with
  | 0 =>
    let (channelType, b) ← takeByte b
    let (iface, b) ← takeByte b
    let (payload, _) ← takeString b
    match frameAndSend channelType.toNat iface.toNat payload with
    | some i => return i
    | none => throw (.channel channelType.toNat)
  | 1 =>
    let (bytes, _) ← takeString b
    return sendEthernetFrame bytes
  | 2 => return pollOnce
  | n => throw (.unassigned n)

/-- The instruction of one submission, total on any bytes. -/
def decode (wo : WireOrder) (r : Request) : Except DecodeError Instr :=
  match r.form with
  | .hostOp => decodeHostOp r.bytes
  | .command => decodeCommand wo r.bytes
  | .status => do
    let (wire, _) ← takeBytes 4 r.bytes
    return .status (de32 wo wire)
  | .sdpcm => decodeSdpcm r.bytes
  | .cdc => decodeCdc r.bytes
  | .bdc => do
    let (head, _) ← takeBytes bdcLen r.bytes
    return .bdc (decBdc head)
  | .pseudo => decodePseudo r.bytes

/-- A 16-bit count operand. -/
def encCount (n : Nat) : List Byte := le16 (BitVec.ofNat 16 n)

/-- An 8-bit operand. -/
def encByte (n : Nat) : List Byte := [BitVec.ofNat 8 n]

/-- A byte-string operand. -/
def encString (s : List Byte) : List Byte := encCount s.length ++ s

/-- A host operation's bytes. -/
def hostOp (selector : Byte) (operands : List Byte) : Request := ⟨.hostOp, selector :: operands⟩

/-- A read command's bytes (R106). -/
def encRead (wo : WireOrder) (autoinc : Bool) (fn : FnCode) (addr : BusAddr) (len : LenField) : Request :=
  ⟨.command, ser32 wo (mkcmd false autoinc fn addr len)⟩

/-- A write command's bytes and its zero-filled data phase (R106). -/
def encWrite (wo : WireOrder) (autoinc : Bool) (fn : FnCode) (addr : BusAddr) (len : LenField)
    (data : List Byte) : Request :=
  ⟨.command, ser32 wo (mkcmd true autoinc fn addr len) ++ padWords data⟩

/-- A frame's bytes (R115). -/
def encFrame (f : SdpcmForm) (chan : BitVec 4) (rest : List Byte) : Request :=
  ⟨.sdpcm, encSdpcm (f.header chan) ++ rest⟩

/-- The bytes of a well-formed instruction, from the encodings of spec/30_encoding.md and the layout of log 8. -/
def encode (wo : WireOrder) : Instr → Request
  | .rdreg fn addr size => hostOp 0x01 (fn :: le32 addr ++ encByte size)
  | .wrreg fn addr size value => hostOp 0x02 (fn :: le32 addr ++ encByte size ++ le32 value)
  | .rdbytes fn addr n => hostOp 0x03 (fn :: le32 addr ++ encCount n)
  | .wrbytes fn addr bytes => hostOp 0x04 (fn :: le32 addr ++ encString bytes)
  | .setwin addr => hostOp 0x10 (le32 addr)
  | .bprd addr size => hostOp 0x11 (le32 addr ++ encByte size)
  | .bpwr addr size value => hostOp 0x12 (le32 addr ++ encByte size ++ le32 value)
  | .bprdbytes addr n => hostOp 0x13 (le32 addr ++ encCount n)
  | .bpwrbytes addr bytes => hostOp 0x14 (le32 addr ++ encString bytes)
  | .hascredit => hostOp 0x20 []
  | .txctl body => hostOp 0x21 (encString body)
  | .txdata iface frame => hostOp 0x22 (encByte iface ++ encString frame)
  | .ioctlset cmd iface data => hostOp 0x30 (le32 cmd ++ encByte iface ++ encString data)
  | .ioctlget cmd iface buffer => hostOp 0x31 (le32 cmd ++ encByte iface ++ encString buffer)
  | .iovarset name iface value => hostOp 0x32 (encString name ++ encByte iface ++ encString value)
  | .iovarget name iface => hostOp 0x33 (encString name ++ encByte iface)
  | .buspoll => hostOp 0x40 []
  | .rxone len => hostOp 0x41 (encCount len)
  | .pollonce => hostOp 0x42 []
  | .setcb present => hostOp 0x43 [if present then 1 else 0]
  | .reset => hostOp 0x50 []
  | .cmdRdBus a addr len => encRead wo a fnBus addr len
  | .cmdRdBp a addr len => encRead wo a fnBackplane addr len
  | .cmdRdWlan a addr len => encRead wo a fnWlan addr len
  | .cmdWrBus a addr len data => encWrite wo a fnBus addr len data
  | .cmdWrBp a addr len data => encWrite wo a fnBackplane addr len data
  | .cmdWrWlan a addr len data => encWrite wo a fnWlan addr len data
  | .cmdRdReserved a addr len => encRead wo a 3 addr len
  | .cmdWrReserved a addr len data => encWrite wo a 3 addr len data
  | .status word => ⟨.status, ser32 wo word⟩
  | .sdpcmControl f rest => encFrame f 0 rest
  | .sdpcmEvent f rest => encFrame f 1 rest
  | .sdpcmData f rest => encFrame f 2 rest
  | .sdpcmUnknown3 f rest => encFrame f 3 rest
  | .sdpcmUnknown4 f rest => encFrame f 4 rest
  | .sdpcmUnknown5 f rest => encFrame f 5 rest
  | .sdpcmUnknown6 f rest => encFrame f 6 rest
  | .sdpcmUnknown7 f rest => encFrame f 7 rest
  | .sdpcmUnknown8 f rest => encFrame f 8 rest
  | .sdpcmUnknown9 f rest => encFrame f 9 rest
  | .sdpcmUnknown10 f rest => encFrame f 10 rest
  | .sdpcmUnknown11 f rest => encFrame f 11 rest
  | .sdpcmUnknown12 f rest => encFrame f 12 rest
  | .sdpcmUnknown13 f rest => encFrame f 13 rest
  | .sdpcmUnknown14 f rest => encFrame f 14 rest
  | .sdpcmUnknown15 f rest => encFrame f 15 rest
  | .cdcGet f payload => ⟨.cdc, encCdc (f.header 0) ++ payload⟩
  | .cdcSet f payload => ⟨.cdc, encCdc (f.header 1) ++ payload⟩
  | .bdc h => ⟨.bdc, encBdc h⟩

/-- `n` bytes of the number `w`, least significant first: the table numbers bit 0 as the least significant bit of the
first byte. -/
def tableBytes : Nat → Nat → List Byte
  | 0, _ => []
  | n + 1, w => BitVec.ofNat 8 w :: tableBytes n (w / 256)

/-- The submission a word of spec/opcode_table.json stands for, its bits above `nbits` zero. The table's formats share
bit patterns; which is meant is read from `nbits`, and for one byte from the selector list (log 17): 8 bits are a host
operation's selector or, where no operation has that selector, the chanFlags byte of an SDPCM header; 32 bits a command
word with the zero bytes its length field (bits 10:0) asks for as data; 96 an SDPCM header; 128 a CDC header; 0 bits the status word, to which the table gives no fixed bit. -/
def tableRequest (wo : WireOrder) (nbits w : Nat) : Request :=
  if nbits = 0 then ⟨.status, ser32 wo (BitVec.ofNat 32 w)⟩
  else if nbits = 32 then ⟨.command, ser32 wo (BitVec.ofNat 32 w) ++ zeros (roundup4 (w % 2048))⟩
  else if nbits = 96 then ⟨.sdpcm, tableBytes 12 w⟩
  else if nbits = 128 then ⟨.cdc, tableBytes 16 w⟩
  else
    let op : Request := ⟨.hostOp, tableBytes ((nbits + 7) / 8) w ++ zeros 16⟩
    match decode wo op with
    | .error (.unassigned _) => ⟨.sdpcm, zeros 5 ++ tableBytes 1 w ++ zeros 6⟩
    | _ => op

/-- The instruction the decoder reads from a word of the opcode table, in the suggested wire order. -/
def decodeTableWord (nbits w : Nat) : Option Instr :=
  match decode Config.suggested.wireOrder (tableRequest Config.suggested.wireOrder nbits w) with
  | .ok i => some i
  | .error _ => none

end Sys2Proof
end

