-- ==== Sys2Proof/Machine/Fetch.lean ====
section
/-! DEFINITION. Machine/Fetch.lean: what the engine finds on its command port (spec/45_system_ops.md R291; spec/30_encoding.md
R140, R145), and how a word of the opcode table is put there. -/

namespace Sys2Proof.Machine

/-- What a step finds. -/
inductive Fetched where
  /-- the configuration violates a constraint (R7) -/
  | badConfig
  /-- an operation holds the lock and will not release it (R291) -/
  | waiting
  /-- nothing is submitted: the engine waits for an operation (R50) -/
  | idle
  /-- a submission refused with `InvalidArgument(which)`; `s` is the state with it taken (R142, R145) -/
  | turnedAway (which : Argument) (s : State)
  /-- bytes that are no submission (log 9) -/
  | malformed
  /-- an instruction, and the state with its submission taken -/
  | instr (i : Instr) (s : State)
deriving DecidableEq, Repr

/-- What is wrong with a submission that is refused: a selector not in the table (R140), a channel that is not transmitted
on (R142). Bytes that are no submission are not refused. -/
def DecodeError.argument : DecodeError → Option Argument
  | .unassigned _ => some .operation
  | .channel _ => some .channel
  | .truncated => none
  | .badOperand => none

/-- Look at the submission the lock admits next (log 7). -/
def fetch (s : State) : Fetched :=
  if !s.cfg.wf then .badConfig
  else if s.lock then .waiting
  else
    match s.requests with
    | [] => .idle
    | r :: rest =>
      match decode s.cfg.wireOrder r with
      | .ok i => .instr i { s with requests := rest }
      | .error e =>
        match DecodeError.argument e with
        | some which => .turnedAway which { s with requests := rest }
        | none => .malformed

/-- A submission is refused with `InvalidArgument(which)` (R140, R142). -/
def refuseSubmission (which : Argument) (s : State) : State := s.release (.err (.invalidArgument which))

/-- The state in which the host has just submitted `r`, the engine being free to take it. -/
def State.submit (s : State) (r : Request) : State :=
  { s with requests := r :: s.requests, lock := false, phase := .idle }

end Sys2Proof.Machine
end

