-- ==== Sys2Proof/Machine/Step.lean ====
section
/-! DEFINITION. Machine/Step.lean: one step takes the submission the lock admits next and runs it to its result (R34: "A
model may run an operation as one big step"; log 5). -/

namespace Sys2Proof.Machine

/-- One step of the engine. While the lock is held, or nothing is submitted, nothing changes. -/
def step (s : State) : Host.Outcome State Fault Refusal :=
  match fetch s with
  | .badConfig => .refused .illFormedConfig
  | .waiting => .next s
  | .idle => .next s
  | .turnedAway which s' => .next (refuseSubmission which s')
  | .malformed => .fault .malformedRequest
  | .instr i s' => exec i s'

/-- `s` with a word of the opcode table submitted on the command port, admitted next (log 7, 17). -/
def State.withFetchWord (s : State) (nbits w : Nat) : State :=
  s.submit (tableRequest s.cfg.wireOrder nbits w)

end Sys2Proof.Machine
end

