-- ==== Sys2Proof/Safety.lean ====
section
/-! DEFINITION. Safety.lean: what claims say of a state and of a run: the invariant, the legality of what leaves the bus
port, counts of transactions, and the events, polls and frames that statements name. -/

namespace Sys2Proof.Machine

/-- The command word that opens a transaction's bytes on the bus port (R106). -/
def openingCommand (cfg : Config) (out : List Byte) : CommandWord := decCmd (de32 cfg.wireOrder (out.take 4))

/-- The number of data bytes on the wire in each direction (R106): (out, back). -/
def dataPhase (c : CommandWord) : Nat × Nat :=
  if c.write then (roundup4 c.len.toNat, 0) else (0, readPad c.fn + roundup4 c.len.toNat)

/-- A transaction the engine may issue: a named function, auto-increment set, a length that is not 0 (R102 to R104), and
data phases of the lengths of R106. Every other event is legal. -/
def PortEvent.legal (cfg : Config) : PortEvent → Bool
  | .xfer out back =>
    let c := openingCommand cfg out
    c.fn != 3 && c.autoinc && c.len != 0 && out.length == 4 + (dataPhase c).1 &&
      (match back with
        | none => true
        | some b => b.length == (dataPhase c).2 + 4)
  | .sleep _ | .deliverEth _ | .deliverEvt _ | .log _ => true

/-- The cached window has bits 14:0 zero (R22). -/
def State.windowAligned (s : State) : Bool := s.win &&& 0x7FFF == 0

/-- The lock is held exactly while an operation runs (R34, R292). -/
def State.lockMatchesPhase (s : State) : Bool :=
  match s.phase with
  | .idle => !s.lock
  | .run _ _ => s.lock

/-- One buffer is in canonical form and inside its size (R27 to R29). -/
def State.bufferOk (s : State) (b : Buffer) : Bool :=
  Memory.wf (s.buffer b) && Memory.within (s.buffer b) (s.bufferSize b)

/-- The invariant that every step keeps, the legality of the bus trace apart. -/
structure State.Inv (s : State) : Prop where
  cfg : s.cfg.wf = true
  window : s.windowAligned = true
  phase : s.lockMatchesPhase = true
  ioctl : s.bufferOk .ioctl = true
  iovar : s.bufferOk .iovar = true
  rx : s.bufferOk .rx = true

/-- Every transaction the engine has issued was legal. -/
def State.busLegal (s : State) : Prop := ∀ e ∈ s.trace, e.legal s.cfg = true

/-- The chip's selector registers hold the bytes of window `w` (R70). -/
def State.selectorsHold (s : State) (w : Word) : Prop :=
  s.chipSel = ⟨wordByte w 3, wordByte w 2, wordByte w 1⟩

/-- The chip's selector registers agree with a valid cache (R46). -/
def State.windowAgrees (s : State) : Prop := s.winValid = true → s.selectorsHold s.win

/-- Whether an event is a transaction. -/
def PortEvent.isXfer : PortEvent → Bool
  | .xfer _ _ => true
  | .sleep _ | .deliverEth _ | .deliverEvt _ | .log _ => false

/-- The number of transactions on the bus port (R183, R365). -/
def transactions (t : List PortEvent) : Nat := t.countP PortEvent.isXfer

/-! ### Transactions -/

/-- The answer that brings back the data `back` and the status word `st` (R106). -/
def reply (cfg : Config) (back : List Byte) (st : Word) : Answer := .ok (back ++ ser32 cfg.wireOrder st)

/-- The command word of a read of `n` bytes (R151). -/
def readCommand (fn : FnCode) (addr : BusAddr) (n : Nat) : Word := mkcmd false true fn addr (BitVec.ofNat 11 n)

/-- The command word of a write of `n` bytes (R152). -/
def writeCommand (fn : FnCode) (addr : BusAddr) (n : Nat) : Word := mkcmd true true fn addr (BitVec.ofNat 11 n)

/-- A read of `n` bytes on the bus port, answered by `back` and the status word `st` (R106). -/
def readEvent (cfg : Config) (fn : FnCode) (addr : BusAddr) (n : Nat) (back : List Byte) (st : Word) : PortEvent :=
  .xfer (ser32 cfg.wireOrder (readCommand fn addr n)) (some (back ++ ser32 cfg.wireOrder st))

/-- A write of the bytes `d`, zero-filled to whole words, answered by the status word `st` (R106). -/
def writeEvent (cfg : Config) (fn : FnCode) (addr : BusAddr) (d : List Byte) (st : Word) : PortEvent :=
  .xfer (ser32 cfg.wireOrder (writeCommand fn addr d.length) ++ padWords d) (some (ser32 cfg.wireOrder st))

/-- The number of bytes the data phase of a read of `n` bytes brings back (R106). -/
def readLength (fn : FnCode) (n : Nat) : Nat := readPad fn + roundup4 n

/-- The `n` data bytes of what a read brought back (R151). -/
def readData (fn : FnCode) (n : Nat) (back : List Byte) : List Byte := slice back (readPad fn) (readPad fn + n)

/-- The chip's selector registers after a write of the bytes `d` to the backplane function at `addr` that did not fail
(R40): each one whose address the write covers holds the byte written there. -/
def selectorsAfter (cfg : Config) (fn : FnCode) (addr : BusAddr) (d : List Byte) (old : Selectors) : Selectors :=
  let byte (reg : BusAddr) (before : Byte) : Byte :=
    if fn = fnBackplane ∧ addr.toNat ≤ reg.toNat ∧ reg.toNat < addr.toNat + d.length then
      byteAt d (reg.toNat - addr.toNat)
    else before
  ⟨byte cfg.regWinHigh old.high, byte cfg.regWinMid old.mid, byte cfg.regWinLow old.low⟩

/-- An operation has ended with result `r` after the events `es`, `rest` being the answers not used (R292, R305). -/
def State.ends (s : State) (es : List PortEvent) (rest : List Answer) (r : Result) : State :=
  { s with
    lock := false
    phase := .idle
    answers := rest
    trace := s.trace ++ es
    result := some r }

/-! ### SETWIN -/

/-- Whether SETWIN has to write the selector register of byte `k` of window `w` (R182). -/
def State.selectorDue (s : State) (w : Word) (k : Nat) : Bool := !s.winValid || wordByte w k != wordByte s.win k

/-- The selector writes SETWIN to address `a` makes, in order (R181, R182). -/
def State.selectorsDue (s : State) (a : Word) : List (BusAddr × Byte) :=
  let w := windowOf a
  (if s.selectorDue w 3 then [(s.cfg.regWinHigh, wordByte w 3)] else []) ++
    (if s.selectorDue w 2 then [(s.cfg.regWinMid, wordByte w 2)] else []) ++
    (if s.selectorDue w 1 then [(s.cfg.regWinLow, wordByte w 1)] else [])

/-- Those writes on the bus port, answered by the status words `sts`. -/
def State.selectorEvents (s : State) (a : Word) (sts : List Word) : List PortEvent :=
  List.zipWith (fun p st => writeEvent s.cfg fnBackplane p.1 [p.2] st) (s.selectorsDue a) sts

/-- The chip's selector registers once they hold the window of `a`, those SETWIN does not write being left. -/
def State.selectorsFor (s : State) (a : Word) : Selectors :=
  let w := windowOf a
  { high := if s.selectorDue w 3 then wordByte w 3 else s.chipSel.high
    mid := if s.selectorDue w 2 then wordByte w 2 else s.chipSel.mid
    low := if s.selectorDue w 1 then wordByte w 1 else s.chipSel.low }

/-- The state after SETWIN to `a` whose writes were answered by the status words `sts` (R182). -/
def State.selected (s : State) (a : Word) (sts : List Word) : State :=
  { s with
    win := windowOf a
    winValid := true
    lastStatus := sts.getLastD s.lastStatus
    chipSel := s.selectorsFor a
    trace := s.trace ++ s.selectorEvents a sts }

/-- No access through the window can reach a selector register: they lie above the window offsets, with or without the
4-byte flag (R69, R71). The suggested addresses are so. -/
def selectorsApart (c : Config) : Bool :=
  c.bpFlag4B.toNat < 2 ^ 16 && 2 ^ 16 ≤ c.regWinHigh.toNat && 2 ^ 16 ≤ c.regWinMid.toNat && 2 ^ 16 ≤ c.regWinLow.toNat

/-! ### Frames -/

/-- A control frame of the engine with sequence number `seq` (R206, R211). -/
def controlFrame (seq : Byte) (body : List Byte) : List Byte :=
  let size := BitVec.ofNat 16 (12 + body.length)
  le16 size ++ le16 (~~~size) ++ [seq, 0, 0, 12, 0, 0, 0, 0] ++ body

/-- The body of an ioctl request (R235). -/
def requestBody (kind : BitVec 1) (cmd : Word) (iface : Nat) (id : Half) (payload : List Byte) : List Byte :=
  le32 cmd ++ le32 (BitVec.ofNat 32 payload.length) ++ le32 (mkflags kind (BitVec.ofNat 4 iface) id) ++
    le32 0 ++ payload

/-- The header at the start of a received packet (R265). -/
def headerOf (b : List Byte) : SdpcmHeader := decSdpcm b

/-- The packet passes the checks of RXONE before the channel is looked at (R264 steps 1, 2 and 4). -/
def framed (b : List Byte) : Bool :=
  12 ≤ b.length && (headerOf b).size == ~~~(headerOf b).sizeCom && 12 ≤ (headerOf b).headerLength.toNat &&
    12 ≤ (headerOf b).size.toNat && (headerOf b).size.toNat ≤ b.length

/-- Where the sub-header of a packet stands (R113). -/
def subHeader (b : List Byte) : Nat := (headerOf b).headerLength.toNat

/-- The number of bytes of a packet's frame (R110). -/
def frameSize (b : List Byte) : Nat := (headerOf b).size.toNat

/-- The CDC header of a control packet (R269). -/
def cdcOf (b : List Byte) : CdcHeader := decCdc (slice b (subHeader b) (subHeader b + 16))

/-- Where the payload of a data or event packet starts (R131, R270). -/
def bdcStart (b : List Byte) : Nat :=
  subHeader b + 4 + 4 * (decBdc (slice b (subHeader b) (subHeader b + 4))).dataOffset.toNat

/-- A control packet that holds its CDC header (R269). -/
def controlPacket (b : List Byte) : Bool :=
  framed b && (headerOf b).chanFlags.toNat % 16 == 0 && subHeader b + 16 ≤ frameSize b

/-- A packet on channel `chan` that holds its BDC header and a payload start inside it (R270, R271). -/
def bdcPacket (chan : Nat) (b : List Byte) : Bool :=
  framed b && (headerOf b).chanFlags.toNat % 16 == chan && subHeader b + 4 ≤ frameSize b && bdcStart b ≤ frameSize b

/-- The payload of a control packet (R269). -/
def controlPayload (b : List Byte) : List Byte := slice b (subHeader b + 16) (frameSize b)

/-- The payload of a data or event packet (R270, R271). -/
def bdcPayloadOf (b : List Byte) : List Byte := slice b (bdcStart b) (frameSize b)

/-- The event markers are where they must be (R272). -/
abbrev marked (cfg : Config) (p : List Byte) : Prop :=
  22 ≤ p.length ∧ slice p 12 14 = cfg.ethertypeLink ∧ slice p 19 22 = cfg.eventOui

/-! ### Polls -/

/-- What the chip answers to one poll that finds a packet: data and status word of the interrupt-status read, then of
the packet read. -/
structure Poll where
  irqBack : List Byte
  irqStatus : Word
  back : List Byte
  status : Word
deriving DecidableEq, Repr

/-- The answers of a poll. -/
def Poll.answers (p : Poll) (cfg : Config) : List Answer :=
  [reply cfg p.irqBack p.irqStatus, reply cfg p.back p.status]

/-- The interrupt-status value that `back` carries (R261). -/
def irqValue (cfg : Config) (back : List Byte) : Word := leValue (readData fnBus cfg.intStatusWidth back)

/-- The length of the packet that the poll's first status word announces (R262). -/
def Poll.len (p : Poll) (cfg : Config) : Nat := (decStatus cfg p.irqStatus).pktLen

/-- The packet the poll brings (R262). -/
def Poll.packet (p : Poll) (cfg : Config) : List Byte := p.back.take (p.len cfg)

/-- The answer to the interrupt-status read announces a packet (R261, R262). -/
def announces (cfg : Config) (back : List Byte) (st : Word) : Bool :=
  !(decStatus cfg st).dataNa && irqHas (irqValue cfg back) cfg.irqF2PacketAvailable && (decStatus cfg st).f2Ready &&
    (decStatus cfg st).pktAvail && (decStatus cfg st).pktLen != 0

/-- A packet of `n` bytes fits a transfer and the receive buffer (R262). -/
def receivable (cfg : Config) (n : Nat) : Bool := n ≤ cfg.busMaxXfer && n ≤ cfg.rxBufSize

/-- The poll makes its packet read, and both answers have the lengths asked for (R261, R262). -/
def Poll.reads (p : Poll) (cfg : Config) : Bool :=
  p.irqBack.length == readLength fnBus cfg.intStatusWidth && p.back.length == readLength fnWlan (p.len cfg) &&
    announces cfg p.irqBack p.irqStatus && receivable cfg (p.len cfg)

/-- The poll finds a packet: its packet read is not unavailable (R262). -/
def Poll.finds (p : Poll) (cfg : Config) : Bool := p.reads cfg && !(decStatus cfg p.status).dataNa

/-- The log a poll makes when the interrupt-status value reports unavailable data (R261). -/
def irqLog (cfg : Config) (back : List Byte) : List PortEvent :=
  if irqHas (irqValue cfg back) cfg.irqDataUnavailable then [.log .dataUnavailable] else []

/-- What a poll that finds a packet puts on the ports. -/
def Poll.events (p : Poll) (cfg : Config) : List PortEvent :=
  [readEvent cfg fnBus cfg.intStatusAddr cfg.intStatusWidth p.irqBack p.irqStatus] ++ irqLog cfg p.irqBack ++
    [readEvent cfg fnWlan cfg.wlanFifoAddr (p.len cfg) p.back p.status]

/-- The state after a poll that finds a packet (R261, R262). -/
def State.afterPoll (s : State) (p : Poll) : State :=
  { s.noteIrq (irqValue s.cfg p.irqBack) with
    rxBuf := Memory.write s.rxBuf 0 (p.packet s.cfg)
    lastStatus := p.status
    trace := s.trace ++ p.events s.cfg }

/-- The state after a poll that finds a packet and has taken its header's credit (R266). -/
def State.received (s : State) (p : Poll) : State :=
  { s.afterPoll p with creditMax := (headerOf (p.packet s.cfg)).busCredit }

/-- The state after a poll whose packet read is unavailable: `rx_buf` is untouched (R261, R262). -/
def State.afterLost (s : State) (p : Poll) : State :=
  { s.noteIrq (irqValue s.cfg p.irqBack) with
    lastStatus := p.status
    trace := s.trace ++ p.events s.cfg }

/-- What a poll puts on the ports up to its packet read, the interrupt-status read being available. -/
def quietEvents (cfg : Config) (back : List Byte) (st : Word) : List PortEvent :=
  readEvent cfg fnBus cfg.intStatusAddr cfg.intStatusWidth back st :: irqLog cfg back

/-- The state after that (R261). -/
def State.afterQuiet (s : State) (back : List Byte) (st : Word) : State :=
  { s.noteIrq (irqValue s.cfg back) with
    lastStatus := st
    trace := s.trace ++ quietEvents s.cfg back st }

/-- The state after a control frame with this body has been built, staged and written, the write answered by the status
word `st` (R206, R209, R211). -/
def State.sentControl (s : State) (body : List Byte) (st : Word) : State :=
  { s with
    seq := s.seq + 1
    ioctlBuf := Memory.write s.ioctlBuf 0 (padWords (controlFrame s.seq body))
    lastStatus := st
    trace := s.trace ++ [writeEvent s.cfg fnWlan s.cfg.wlanFifoAddr (controlFrame s.seq body) st] }

/-- The bytes of a data frame of the engine (R138, R206 to R208, R212). -/
def dataFrameBytes (cfg : Config) (seq : Byte) (iface : Nat) (frame : List Byte) : List Byte :=
  let size := BitVec.ofNat 16 (18 + frame.length)
  le16 size ++ le16 (~~~size) ++ [seq, 2, 0, 14, 0, 0, 0, 0] ++ [0, 0] ++
    [cfg.bdcTxFlags, 0, BitVec.ofNat 8 iface, 0] ++ frame

/-- The state after a data frame has been built and written, the write answered by the status word `st` (R206, R212). -/
def State.sentData (s : State) (iface : Nat) (frame : List Byte) (st : Word) : State :=
  { s with
    seq := s.seq + 1
    lastStatus := st
    trace := s.trace ++ [writeEvent s.cfg fnWlan s.cfg.wlanFifoAddr (dataFrameBytes s.cfg s.seq iface frame) st] }

/-- The state after an ioctl request has been sent (R234, R235). -/
def State.requested (s : State) (kind : BitVec 1) (cmd : Word) (iface : Nat) (payload : List Byte) (st : Word) :
    State :=
  { s with ioctlId := s.ioctlId + 1 }.sentControl (requestBody kind cmd iface (s.ioctlId + 1) payload) st

/-- The operands of an ioctl request that the checks of R232 and R233 let pass. -/
def requestFits (cfg : Config) (cmd : Word) (iface payloadLen : Nat) : Bool :=
  iface ≤ cfg.ifaceMax && cfg.cmdValid.valid cmd && 28 + payloadLen ≤ cfg.busMaxXfer &&
    roundup4 (28 + payloadLen) ≤ cfg.ioctlBufSize

/-- An iovar name (R244). -/
def nameFits (name : List Byte) : Bool := name != [] && !name.contains 0

/-- The payload of an iovar request (R135, R244). -/
def iovarPayload (name value : List Byte) : List Byte := name ++ [0] ++ value

/-- The operands of an ioctl operation pass all its checks (R232, R233, R244); no other instruction is one. -/
def ioctlPasses (cfg : Config) : Instr → Bool
  | .ioctlset cmd iface data | .ioctlget cmd iface data => requestFits cfg cmd iface data.length
  | .iovarset name iface value => iovarPasses cfg.wlcSetVar name iface (iovarPayload name value)
  | .iovarget name iface => iovarPasses cfg.wlcGetVar name iface (iovarPayload name [])
  | _ => false
where
  /-- The checks of IOVARSET and IOVARGET. -/
  iovarPasses (cmd : Word) (name : List Byte) (iface : Nat) (m : List Byte) : Bool :=
    nameFits name && requestFits cfg cmd iface m.length && m.length ≤ cfg.iovarBufSize

/-- The operands of an instruction that sends a frame pass all its checks (R210 to R212, R232, R233, R244). -/
def sendPasses (cfg : Config) (i : Instr) : Bool :=
  match i with
  | .txctl body =>
    16 ≤ body.length && roundup4 (12 + body.length) ≤ cfg.ioctlBufSize && 12 + body.length ≤ cfg.busMaxXfer
  | .txdata iface frame => iface ≤ cfg.ifaceMax && 1 ≤ frame.length && 18 + frame.length ≤ cfg.busMaxXfer
  | _ => ioctlPasses cfg i

/-- The state in which the credit wait of an instruction that sends a frame starts: an iovar is marshalled, an ioctl's ID
taken (R204, R234, R245, R246). -/
def State.prepared (s : State) : Instr → State
  | .ioctlset _ _ _ | .ioctlget _ _ _ => { s with ioctlId := s.ioctlId + 1 }
  | .iovarset name _ value => marshalled (iovarPayload name value)
  | .iovarget name _ => marshalled (iovarPayload name [])
  | _ => s
where
  /-- The payload goes to `iovar_buf`, and the ID is taken. -/
  marshalled (m : List Byte) : State :=
    { s with iovarBuf := Memory.write s.iovarBuf 0 m, ioctlId := s.ioctlId + 1 }

/-- The state after the frame has been sent from there, the write answered by the status word `st` (R211, R212, R235). -/
def State.transmitted (s : State) (st : Word) : Instr → State
  | .txctl body => s.sentControl body st
  | .txdata iface frame => s.sentData iface frame st
  | .ioctlset cmd iface data => s.sentControl (requestBody 1 cmd iface s.ioctlId data) st
  | .ioctlget cmd iface buffer => s.sentControl (requestBody 0 cmd iface s.ioctlId buffer) st
  | .iovarset name iface value =>
    s.sentControl (requestBody 1 s.cfg.wlcSetVar iface s.ioctlId (iovarPayload name value)) st
  | .iovarget name iface => s.sentControl (requestBody 0 s.cfg.wlcGetVar iface s.ioctlId (iovarPayload name [])) st
  | _ => s

/-- The state after an ioctl operation has sent its request with credit, the write answered by the status word `st`. -/
def State.asked (s : State) (st : Word) (i : Instr) : State := (s.prepared i).transmitted st i

/-- What an ioctl operation answers to a response with status 0 and this payload (R240 to R246). -/
def ioctlAnswer (payload : List Byte) : Instr → Value
  | .ioctlget _ _ buffer =>
    let n := min buffer.length payload.length
    .counted n (payload.take n)
  | .iovarget _ _ => .bytes payload
  | _ => .unit

/-- A packet that answers the request with ID `id` (R236). -/
def respondsTo (id : Half) (b : List Byte) : Bool := controlPacket b && idOf (cdcOf b).flags == id

/-! ### Rounds of the waits -/

/-- What the chip answers to one `PollAndDispatch`, no transaction failing: to the interrupt-status read alone, or to it
and to the packet read. -/
inductive PollAnswers where
  | one (back : List Byte) (st : Word)
  | two (p : Poll)
deriving DecidableEq, Repr

/-- The answers as a list. -/
def PollAnswers.list (a : PollAnswers) (cfg : Config) : List Answer :=
  match a with
  | .one back st => [reply cfg back st]
  | .two p => p.answers cfg

/-- They are as many as the poll makes transactions, and of the lengths asked for (R261, R262). -/
def PollAnswers.fits (a : PollAnswers) (cfg : Config) : Bool :=
  match a with
  | .one back st =>
    back.length == readLength fnBus cfg.intStatusWidth &&
      !(announces cfg back st && receivable cfg (decStatus cfg st).pktLen)
  | .two p => p.reads cfg

/-- What the log says of a packet that RXONE rejects, in the order of its checks (R264 to R271, R276, R315 (e)). -/
def rejection (b : List Byte) : Option LogKind :=
  let chan := (headerOf b).chanFlags.toNat % 16
  if b.length < 12 then some .shortPacket
  else if (headerOf b).size ≠ ~~~(headerOf b).sizeCom ∨ (headerOf b).headerLength.toNat < 12 then some .corruptHeader
  else if frameSize b < 12 ∨ b.length < frameSize b then some .shortPacket
  else if 3 ≤ chan then some .unknownChannel
  else if frameSize b < subHeader b + (if chan = 0 then 16 else 4) then some .shortPacket
  else if chan ≠ 0 ∧ frameSize b < bdcStart b then some .malformedBdc
  else none

/-- The header of a packet passes the validity test, so that its credit is taken (R111, R266). -/
def credits (b : List Byte) : Bool := 12 ≤ b.length && (headerOf b).size == ~~~(headerOf b).sizeCom

/-- What is delivered of a packet (R276). -/
def delivery (cfg : Config) (cbSet : Bool) (b : List Byte) : Option PortEvent :=
  if bdcPacket 2 b = true ∧ cbSet = true then some (.deliverEth (bdcPayloadOf b))
  else if bdcPacket 1 b = true ∧ marked cfg (bdcPayloadOf b) then some (.deliverEvt (bdcPayloadOf b))
  else none

/-- The state after a poll that finds a packet, and after all that is done with it: the credit, the log, the delivery
(R266, R276), from which the host submits nothing. -/
def State.dispatched (s : State) (p : Poll) : State :=
  let b := p.packet s.cfg
  let t := if credits b then s.received p else s.afterPoll p
  match rejection b, delivery s.cfg s.cbSet b with
  | some kind, _ => { t with trace := t.trace ++ [.log kind] }
  | none, some e => { t with trace := t.trace ++ [e], reentries := s.reentries.tail }
  | none, none => t

/-- The state after a `PollAndDispatch` so answered (R261, R262, R276). -/
def State.polledBy (s : State) : PollAnswers → State
  | .one back st =>
    if (decStatus s.cfg st).dataNa then
      { s with
        lastStatus := st
        trace := s.trace ++ [readEvent s.cfg fnBus s.cfg.intStatusAddr s.cfg.intStatusWidth back st] }
    else if announces s.cfg back st then
      { s.afterQuiet back st with trace := (s.afterQuiet back st).trace ++ [.log .bufferTooSmall] }
    else s.afterQuiet back st
  | .two p => if (decStatus s.cfg p.status).dataNa then s.afterLost p else s.dispatched p

/-- The packet a poll so answered finds. -/
def PollAnswers.packet? (a : PollAnswers) (cfg : Config) : Option (List Byte) :=
  match a with
  | .one _ _ => none
  | .two p => if (decStatus cfg p.status).dataNa then none else some (p.packet cfg)

/-- The poll delivers a packet, and the host submits an operation from inside the delivery (R291). -/
def State.reenters (s : State) (a : PollAnswers) : Bool :=
  match a.packet? s.cfg with
  | some b => (delivery s.cfg s.cbSet b).isSome && s.reentries.head? == some true
  | none => false

/-- The poll finds a control packet with the ID `id`. -/
def PollAnswers.responds (a : PollAnswers) (cfg : Config) (id : Half) : Bool := (a.packet? cfg).any (respondsTo id)

/-- One round of the credit wait: a poll, and a sleep (R204). -/
def State.creditRound (s : State) (a : PollAnswers) : State :=
  { s.polledBy a with trace := (s.polledBy a).trace ++ [.sleep s.cfg.creditSleep] }

/-- One round of the response wait: a poll without the response, a log if it finds a control packet (its ID is another
one), and a sleep (R236, R238). -/
def State.ioctlRound (s : State) (a : PollAnswers) : State :=
  { s.polledBy a with
    trace := (s.polledBy a).trace ++ (if (a.packet? s.cfg).any controlPacket then [.log .wrongId] else []) ++
      [.sleep s.cfg.ioctlSleep] }

/-- The credit wait from `s` makes a round for each of `as`: there is no credit before it, and every outcome of its poll
is absorbed (R204). -/
def State.creditRounds (s : State) : List PollAnswers → Bool
  | [] => true
  | a :: as => !hasCredit s.seq s.creditMax && a.fits s.cfg && !s.reenters a && (s.creditRound a).creditRounds as

/-- The response wait from `s` makes a round for each of `as`: none brings the response, and every outcome of its poll is
absorbed (R238). -/
def State.ioctlRounds (s : State) : List PollAnswers → Bool
  | [] => true
  | a :: as => a.fits s.cfg && !a.responds s.cfg s.ioctlId && !s.reenters a && (s.ioctlRound a).ioctlRounds as

/-- The answers of those rounds. -/
def answersOf (cfg : Config) (as : List PollAnswers) : List Answer := as.flatMap (·.list cfg)

/-- Whether an event is a write to the WLAN function, which hands the chip a frame (R43, R209). -/
def PortEvent.isFrameWrite (cfg : Config) : PortEvent → Bool
  | .xfer out _ => (openingCommand cfg out).write && (openingCommand cfg out).fn == fnWlan
  | .sleep _ | .deliverEth _ | .deliverEvt _ | .log _ => false

/-- The number of frames handed to the chip. -/
def frameWrites (cfg : Config) (t : List PortEvent) : Nat := t.countP (PortEvent.isFrameWrite cfg)

/-- How many bytes, from the first, an instruction may store to in a buffer, whatever its outcome: a frame or an iovar to
be sent (R209, R211, R233, R245, R246), any packet a poll may bring (R262), a frame given as an SDPCM row (log 14). -/
def storedBelow (cfg : Config) (i : Instr) : Buffer → Nat
  | .ioctl =>
    match i with
    | .txctl body => roundup4 (12 + body.length)
    | .ioctlset _ _ data | .ioctlget _ _ data => roundup4 (28 + data.length)
    | .iovarset name _ value => roundup4 (28 + (name.length + 1 + value.length))
    | .iovarget name _ => roundup4 (28 + (name.length + 1))
    | _ => 0
  | .iovar =>
    match i with
    | .iovarset name _ value => name.length + 1 + value.length
    | .iovarget name _ => name.length + 1
    | _ => 0
  | .rx =>
    match i with
    | .txctl _ | .txdata _ _ | .ioctlset _ _ _ | .ioctlget _ _ _ | .iovarset _ _ _ | .iovarget _ _ | .buspoll
    | .pollonce => cfg.rxBufSize
    | .sdpcmControl _ rest | .sdpcmEvent _ rest | .sdpcmData _ rest | .sdpcmUnknown3 _ rest | .sdpcmUnknown4 _ rest
    | .sdpcmUnknown5 _ rest | .sdpcmUnknown6 _ rest | .sdpcmUnknown7 _ rest | .sdpcmUnknown8 _ rest
    | .sdpcmUnknown9 _ rest | .sdpcmUnknown10 _ rest | .sdpcmUnknown11 _ rest | .sdpcmUnknown12 _ rest
    | .sdpcmUnknown13 _ rest | .sdpcmUnknown14 _ rest | .sdpcmUnknown15 _ rest => 12 + rest.length
    | _ => 0

/-- The instruction can write a selector register behind the window cache, or zeroes the cache without the registers
(R344, R354). -/
def bypassesWindow (i : Instr) : Prop :=
  (∃ addr size value, i = .wrreg 1 addr size value) ∨ (∃ addr bytes, i = .wrbytes 1 addr bytes) ∨
    (∃ autoinc addr len data, i = .cmdWrBp autoinc addr len data) ∨ i = .reset

end Sys2Proof.Machine
end

