-- ==== Sys2Proof/Certificates/Slice0/Obligations.lean ====
section
/-! DEFINITION. Certificates/Slice0/Obligations.lean: the statements for the provers. In every statement that gives a whole
next state, each field of State that the equation does not name is unchanged: the equation is the instruction's frame. -/

open Sys2Proof Sys2Proof.Machine

/-! ### Encodings -/

/-- R101: `mkcmd` puts the five fields at bits 31, 30, 29:28, 27:11, 10:0 and is a bijection with inverse `decCmd`. -/
def Obligations.CommandWordBijection : Prop :=
  (∀ (write autoinc : Bool) (fn : FnCode) (addr : BusAddr) (len : LenField),
    (mkcmd write autoinc fn addr len).toNat =
        write.toNat <<< 31 ||| autoinc.toNat <<< 30 ||| fn.toNat <<< 28 ||| addr.toNat <<< 11 ||| len.toNat ∧
      decCmd (mkcmd write autoinc fn addr len) = ⟨write, autoinc, fn, addr, len⟩) ∧
  ∀ w : Word, mkcmd (decCmd w).write (decCmd w).autoinc (decCmd w).fn (decCmd w).addr (decCmd w).len = w

/-- R115, R123, R132: encoding and decoding a header are inverse, whatever follows the header; R122: the flags word of a
CDC header holds kind, interface and ID at bits 1, 15:12 and 31:16, and 0 elsewhere. -/
def Obligations.HeadersRoundTrip : Prop :=
  (∀ (h : SdpcmHeader) (rest : List Byte), decSdpcm (encSdpcm h ++ rest) = h) ∧
  (∀ b : List Byte, 12 ≤ b.length → encSdpcm (decSdpcm b) = b.take 12) ∧
  (∀ (c : CdcHeader) (rest : List Byte), decCdc (encCdc c ++ rest) = c) ∧
  (∀ b : List Byte, 16 ≤ b.length → encCdc (decCdc b) = b.take 16) ∧
  (∀ (h : BdcHeader) (rest : List Byte), decBdc (encBdc h ++ rest) = h) ∧
  (∀ b : List Byte, 4 ≤ b.length → encBdc (decBdc b) = b.take 4) ∧
  ∀ (kind : BitVec 1) (iface : BitVec 4) (id : Half),
    (mkflags kind iface id).toNat = kind.toNat <<< 1 ||| iface.toNat <<< 12 ||| id.toNat <<< 16 ∧
      kindOf (mkflags kind iface id) = kind ∧ ifaceOf (mkflags kind iface id) = iface ∧
      idOf (mkflags kind iface id) = id

/-- Decoding the encoding of a well-formed instruction gives it back, in either wire order. The byte layout of a host
operation's operands is the model's choice (log 8). -/
def Obligations.DecodeEncode : Prop :=
  ∀ (wo : WireOrder) (i : Instr), i.wf = true → decode wo (encode wo i) = .ok i

/-- A few words written out from the spec's encodings decode to their instructions (a host operation's operands in the
layout of log 8, a word of the opcode table as log 17 reads it), and the names of R142 to those they expand to (in the
layout, and with the interface operand, of log 28). -/
def Obligations.TableWordsDecode : Prop :=
  decode .le ⟨.command, [0x01, 0x40, 0x20, 0x50]⟩ = .ok (.cmdRdBp true 0x408 1) ∧
  decode .be ⟨.command, [0x50, 0x20, 0x40, 0x01]⟩ = .ok (.cmdRdBp true 0x408 1) ∧
  decode .le ⟨.hostOp, [0x10, 0x00, 0x80, 0x00, 0x18]⟩ = .ok (.setwin 0x18008000) ∧
  decode .le ⟨.sdpcm, [0x0C, 0x00, 0xF3, 0xFF, 0x00, 0x03, 0x00, 0x0C, 0x00, 0x55, 0x00, 0x00]⟩ =
    .ok (.sdpcmUnknown3 ⟨0x0C, 0xFFF3, 0, 0, 0, 12, 0, 0x55, 0⟩ []) ∧
  decodeTableWord 8 0x50 = some .reset ∧
  decode .le ⟨.pseudo, [0x00, 0x00, 0x00, 0x01, 0x00, 0xAB]⟩ = .ok (.txctl [0xAB]) ∧
  decode .le ⟨.pseudo, [0x00, 0x02, 0x01, 0x01, 0x00, 0xAB]⟩ = .ok (.txdata 1 [0xAB]) ∧
  decode .le ⟨.pseudo, [0x01, 0x01, 0x00, 0xAB]⟩ = .ok (.txdata 0 [0xAB]) ∧
  decode .le ⟨.pseudo, [0x02]⟩ = .ok .pollonce

/-! ### Steps -/

/-- A step runs the instruction the decoder reads from the oldest submission, which is taken off the command port (the
model's form of R291's admission: log 7). -/
def Obligations.StepRunsDecoded : Prop :=
  ∀ (s : State) (r : Request) (rest : List Request) (i : Instr),
    s.cfg.wf = true → s.lock = false → s.requests = r :: rest → decode s.cfg.wireOrder r = .ok i →
    step s = exec i { s with requests := rest }

/-- R140: a request with a selector that is not in the table is refused with InvalidArgument(operation), whatever bytes
follow it, and changes nothing else. -/
def Obligations.UnassignedSelectorRefused : Prop :=
  ∀ (s : State) (sel : Byte) (operands : List Byte) (rest : List Request),
    s.cfg.wf = true → s.lock = false → s.requests = ⟨.hostOp, sel :: operands⟩ :: rest →
    sel.toNat ∉ [0x01, 0x02, 0x03, 0x04, 0x10, 0x11, 0x12, 0x13, 0x14, 0x20, 0x21, 0x22, 0x30, 0x31, 0x32, 0x33,
      0x40, 0x41, 0x42, 0x43, 0x50] →
    step s = .next ({ s with requests := rest }.ends [] s.answers (.err (.invalidArgument .operation)))

/-- R291: an operation submitted while the lock is held waits; that a waiting step changes nothing is the model's form of it
(log 6). -/
def Obligations.LockHeldWaits : Prop :=
  (∀ (i : Instr) (s : State), s.lock = true → exec i s = .next s) ∧
  ∀ s : State, s.cfg.wf = true → s.lock = true → step s = .next s

/-- R290, R292: an operation that starts with the lock free ends with the lock free, the sequencer idle and a result on
the command port, if the host submits nothing from inside a delivery. -/
def Obligations.OperationsReleaseTheLock : Prop :=
  ∀ (i : Instr) (s : State), s.lock = false → (∀ b ∈ s.reentries, b = false) →
    ∃ t r, exec i s = .next t ∧ t.lock = false ∧ t.phase = .idle ∧ t.result = some r

/-- The reset values of R20's table (R50, R340): those the spec gives. -/
def Obligations.ResetState : Prop :=
  State.reset.lock = false ∧ State.reset.phase = .idle ∧ State.reset.seq = 0 ∧ State.reset.creditMax = 0 ∧
  State.reset.ioctlId = 0 ∧ State.reset.win = 0 ∧ State.reset.winValid = true ∧ State.reset.lastStatus = 0 ∧
  State.reset.flagUnderflow = false ∧ State.reset.flagOverflow = false ∧ State.reset.cbSet = false

/-! ### Invariants -/

/-- The power-on state satisfies the invariant. -/
def Obligations.ResetSatisfiesInvariant : Prop := State.reset.Inv ∧ State.reset.busLegal

/-- Every step keeps the invariant: the configuration is legal, bits 14:0 of the cached window are 0, the lock is held
exactly while an operation runs, and the three buffers are canonical and inside their sizes. -/
def Obligations.StepKeepsInvariant : Prop :=
  ∀ s t : State, s.Inv → step s = .next t → t.Inv

/-- Every transaction the engine issues has a function 0 to 2, auto-increment 1, a length that is not 0, and data phases
of the lengths of R106: true of a step from any state that satisfies the invariant. -/
def Obligations.StepKeepsBusLegal : Prop :=
  ∀ s t : State, s.Inv → s.busLegal → step s = .next t → t.busLegal

/-- The configuration never changes, and what the ports have seen stays seen. -/
def Obligations.StepKeepsConfigAndTrace : Prop :=
  ∀ s t : State, step s = .next t → t.cfg = s.cfg ∧ s.trace <+: t.trace

/-- R35: only RESET clears a sticky flag. -/
def Obligations.OnlyResetClearsFlags : Prop :=
  ∀ (i : Instr) (s t : State), i ≠ .reset → exec i s = .next t →
    (s.flagUnderflow = true → t.flagUnderflow = true) ∧ (s.flagOverflow = true → t.flagOverflow = true)

/-- R46: a valid window cache agrees with the chip's selector registers after every instruction but RESET and the raw
writes to the backplane function, if it agreed before and the selector registers lie above the window (their model: log
19). -/
def Obligations.WindowCacheAgrees : Prop :=
  ∀ (i : Instr) (s t : State), s.cfg.wf = true → selectorsApart s.cfg = true → ¬ bypassesWindow i →
    s.windowAgrees → exec i s = .next t → t.windowAgrees

/-- The frame of every instruction over the engine's three buffers, however it ends: a byte behind those it may store to
reads as before, and an instruction that stores nothing to a buffer leaves all of it (the buffers: log 18). -/
def Obligations.BuffersFrame : Prop :=
  ∀ (i : Instr) (s t : State) (b : Buffer) (a : Nat), exec i s = .next t → storedBelow s.cfg i b ≤ a →
    t.bufByte b a = s.bufByte b a

/-! ### RESET, SETCB, HASCREDIT -/

/-- R293: what RESET writes; it issues nothing and leaves the buffers, the callback bit and the chip as they are. -/
def Obligations.ResetOperation : Prop :=
  ∀ s : State, s.lock = false →
    exec .reset s = .next ({ s with
      seq := 0, creditMax := 0, ioctlId := 0, win := 0, winValid := true, lastStatus := 0,
      flagUnderflow := false, flagOverflow := false }.ends [] s.answers (.ok .unit))

/-- R279: SETCB writes the callback bit and nothing else. -/
def Obligations.SetcbResult : Prop :=
  ∀ (s : State) (present : Bool), s.lock = false →
    exec (.setcb present) s = .next ({ s with cbSet := present }.ends [] s.answers (.ok .unit))

/-- R202: HASCREDIT answers whether `1 ≤ d ≤ 127` for `d = credit_max -_8 seq`, and changes nothing. -/
def Obligations.HascreditResult : Prop :=
  ∀ s : State, s.lock = false →
    exec .hascredit s = .next (s.ends [] s.answers
      (.ok (.bool (decide (1 ≤ (s.creditMax - s.seq).toNat ∧ (s.creditMax - s.seq).toNat ≤ 127)))))

/-! ### Bus transport -/

/-- R154, R151, R153: RDREG makes one read and answers the `size` bytes after the padding, zero-extended. -/
def Obligations.RdregResult : Prop :=
  ∀ (s : State) (fn : Byte) (addr : Word) (size : Nat) (back : List Byte) (st : Word) (rest : List Answer),
    s.lock = false → fn.toNat < 3 → addr.toNat < 2 ^ 17 → size = 1 ∨ size = 2 ∨ size = 4 →
    back.length = readLength (fn.setWidth 2) size → (decStatus s.cfg st).dataNa = false →
    s.answers = reply s.cfg back st :: rest →
    ∃ v : Word,
      (∀ k < 4, wordByte v k = if k < size then byteAt (readData (fn.setWidth 2) size back) k else 0) ∧
      exec (.rdreg fn addr size) s = .next ({ s with lastStatus := st }.ends
        [readEvent s.cfg (fn.setWidth 2) (addr.setWidth 17) size back st] rest (.ok (.word v)))

/-- R155, R152: WRREG makes one write of the `size` low bytes of the value, least significant first. (What the chip's
selector registers then hold: log 19.) -/
def Obligations.WrregResult : Prop :=
  ∀ (s : State) (fn : Byte) (addr : Word) (size : Nat) (value st : Word) (rest : List Answer),
    s.lock = false → fn.toNat < 3 → addr.toNat < 2 ^ 17 → size = 1 ∨ size = 2 ∨ size = 4 →
    s.answers = reply s.cfg [] st :: rest →
    let d := [wordByte value 0, wordByte value 1, wordByte value 2, wordByte value 3].take size
    exec (.wrreg fn addr size value) s = .next ({ s with
        lastStatus := st
        chipSel := selectorsAfter s.cfg (fn.setWidth 2) (addr.setWidth 17) d s.chipSel }.ends
      [writeEvent s.cfg (fn.setWidth 2) (addr.setWidth 17) d st] rest (.ok .unit))

/-- R156: RDBYTES makes one read and answers its `n` data bytes. -/
def Obligations.RdbytesResult : Prop :=
  ∀ (s : State) (fn : Byte) (addr : Word) (n : Nat) (back : List Byte) (st : Word) (rest : List Answer),
    s.lock = false → fn.toNat < 3 → addr.toNat < 2 ^ 17 → 1 ≤ n → n ≤ s.cfg.busMaxXfer →
    back.length = readLength (fn.setWidth 2) n → (decStatus s.cfg st).dataNa = false →
    s.answers = reply s.cfg back st :: rest →
    exec (.rdbytes fn addr n) s = .next ({ s with lastStatus := st }.ends
      [readEvent s.cfg (fn.setWidth 2) (addr.setWidth 17) n back st] rest
      (.ok (.bytes (readData (fn.setWidth 2) n back))))

/-- R157: WRBYTES makes one write of its bytes. (The selector registers: log 19.) -/
def Obligations.WrbytesResult : Prop :=
  ∀ (s : State) (fn : Byte) (addr : Word) (bytes : List Byte) (st : Word) (rest : List Answer),
    s.cfg.wf = true → s.lock = false → fn.toNat < 3 → addr.toNat < 2 ^ 17 → 1 ≤ bytes.length →
    bytes.length ≤ s.cfg.busMaxXfer → s.answers = reply s.cfg [] st :: rest →
    exec (.wrbytes fn addr bytes) s = .next ({ s with
        lastStatus := st
        chipSel := selectorsAfter s.cfg (fn.setWidth 2) (addr.setWidth 17) bytes s.chipSel }.ends
      [writeEvent s.cfg (fn.setWidth 2) (addr.setWidth 17) bytes st] rest (.ok .unit))

/-- R154 to R158, R315: the operand checks of the four transport operations, in their order; a refused operation issues
nothing and changes nothing. -/
def Obligations.TransportRefusals : Prop :=
  ∀ (s : State) (fn : Byte) (addr value : Word) (size n : Nat) (bytes : List Byte), s.lock = false →
    let refused (i : Instr) (which : Argument) : Prop :=
      exec i s = .next (s.ends [] s.answers (.err (.invalidArgument which)))
    (3 ≤ fn.toNat → refused (.rdreg fn addr size) .function ∧ refused (.wrreg fn addr size value) .function ∧
      refused (.rdbytes fn addr n) .function ∧ refused (.wrbytes fn addr bytes) .function) ∧
    (fn.toNat < 3 → 2 ^ 17 ≤ addr.toNat →
      refused (.rdreg fn addr size) .address ∧ refused (.wrreg fn addr size value) .address ∧
      refused (.rdbytes fn addr n) .address ∧ refused (.wrbytes fn addr bytes) .address) ∧
    (fn.toNat < 3 → addr.toNat < 2 ^ 17 →
      (¬ (size = 1 ∨ size = 2 ∨ size = 4) →
        refused (.rdreg fn addr size) .size ∧ refused (.wrreg fn addr size value) .size) ∧
      (n = 0 ∨ s.cfg.busMaxXfer < n → refused (.rdbytes fn addr n) .length) ∧
      (bytes.length = 0 ∨ s.cfg.busMaxXfer < bytes.length → refused (.wrbytes fn addr bytes) .length))

/-- R151, R300, R301: a read by RDREG, RDBYTES, BPRD, BPRDBYTES or a read command word (run as an operation: log 11) whose
status word reports unavailable data ends with DataUnavailable; its bytes are dropped and the status word is kept. (The
chip's selector registers after the window writes of BPRD and BPRDBYTES: log 19.) -/
def Obligations.ReadUnavailable : Prop :=
  (∀ (s : State) (fn : Byte) (addr : Word) (n : Nat) (back : List Byte) (st : Word) (rest : List Answer),
    s.lock = false → fn.toNat < 3 → addr.toNat < 2 ^ 17 →
    back.length = readLength (fn.setWidth 2) n → (decStatus s.cfg st).dataNa = true →
    s.answers = reply s.cfg back st :: rest →
    let ended := Host.Outcome.next ({ s with lastStatus := st }.ends
      [readEvent s.cfg (fn.setWidth 2) (addr.setWidth 17) n back st] rest (.err .dataUnavailable))
    (n = 1 ∨ n = 2 ∨ n = 4 → exec (.rdreg fn addr n) s = ended) ∧
    (1 ≤ n → n ≤ s.cfg.busMaxXfer → exec (.rdbytes fn addr n) s = ended)) ∧
  (∀ (s : State) (addr : Word) (n : Nat) (sts : List Word) (back : List Byte) (st : Word) (rest : List Answer),
    s.cfg.wf = true → s.lock = false → sts.length = (s.selectorsDue addr).length →
    s.answers = sts.map (reply s.cfg []) ++ reply s.cfg back st :: rest →
    back.length = 4 + roundup4 n → (decStatus s.cfg st).dataNa = true →
    let off : BusAddr := (addr &&& 0x7FFF).setWidth 17
    let ended (off : BusAddr) := Host.Outcome.next ({ s.selected addr sts with lastStatus := st }.ends
      [readEvent s.cfg 1 off n back st] rest (.err .dataUnavailable))
    (n = 1 ∨ n = 2 ∨ n = 4 → addr.toNat % n = 0 →
      exec (.bprd addr n) s = ended (off ||| if n = 4 then s.cfg.bpFlag4B else 0)) ∧
    (1 ≤ n → n ≤ s.cfg.bpMaxXfer → (addr &&& 0x7FFF).toNat + n ≤ 0x8000 →
      exec (.bprdbytes addr n) s = ended off)) ∧
  ∀ (s : State) (addr : BusAddr) (len : LenField) (back : List Byte) (st : Word) (rest : List Answer),
    s.lock = false → len ≠ 0 → (decStatus s.cfg st).dataNa = true → s.answers = reply s.cfg back st :: rest →
    let ended (fn : FnCode) (i : Instr) : Prop :=
      back.length = readLength fn len.toNat →
      exec i s = .next ({ s with lastStatus := st }.ends [readEvent s.cfg fn addr len.toNat back st] rest
        (.err .dataUnavailable))
    ended 0 (.cmdRdBus true addr len) ∧ ended 1 (.cmdRdBp true addr len) ∧ ended 2 (.cmdRdWlan true addr len)

/-- R150, R300: a failed transaction, whatever instruction issues it and however deep in a wait loop or a poll, is the last
thing that instruction does: it ends with BusFailure and the command word of that transaction, and frees the lock. For
RDREG, WRREG, RDBYTES and WRBYTES the whole next state: the status word kept from before stays, a read leaves the chip's
selector registers alone, and a write leaves those it does not cover (the model's choice, log 19). -/
def Obligations.BusFailures : Prop :=
  (∀ (i : Instr) (s t : State) (out : List Byte), exec i s = .next t →
    PortEvent.xfer out none ∈ t.trace.drop s.trace.length →
    t.result = some (.err (.busFailure (de32 s.cfg.wireOrder (out.take 4)))) ∧
      t.trace.getLast? = some (.xfer out none) ∧ t.lock = false) ∧
  ∀ (s : State) (fn : Byte) (addr : Word) (rest : List Answer),
    s.cfg.wf = true → s.lock = false → fn.toNat < 3 → addr.toNat < 2 ^ 17 → s.answers = .fail :: rest →
    (∀ n, 1 ≤ n → n ≤ s.cfg.busMaxXfer →
      let cmd := readCommand (fn.setWidth 2) (addr.setWidth 17) n
      let ended := Host.Outcome.next ({ s with draws := s.draws + 1 }.ends
        [.xfer (ser32 s.cfg.wireOrder cmd) none] rest (.err (.busFailure cmd)))
      exec (.rdbytes fn addr n) s = ended ∧ (n = 1 ∨ n = 2 ∨ n = 4 → exec (.rdreg fn addr n) s = ended)) ∧
    (∀ (bytes : List Byte) (value : Word), 1 ≤ bytes.length → bytes.length ≤ s.cfg.busMaxXfer →
      let cmd := writeCommand (fn.setWidth 2) (addr.setWidth 17) bytes.length
      ∃ sel : Selectors,
        let ended := Host.Outcome.next ({ s with draws := s.draws + 1, chipSel := sel }.ends
          [.xfer (ser32 s.cfg.wireOrder cmd ++ padWords bytes) none] rest (.err (.busFailure cmd)))
        exec (.wrbytes fn addr bytes) s = ended ∧
        (bytes.length = 1 ∨ bytes.length = 2 ∨ bytes.length = 4 →
          bytes = [wordByte value 0, wordByte value 1, wordByte value 2, wordByte value 3].take bytes.length →
          exec (.wrreg fn addr bytes.length value) s = ended) ∧
        (fn ≠ 1 ∨ s.cfg.regWinHigh.toNat < addr.toNat ∨ addr.toNat + bytes.length ≤ s.cfg.regWinHigh.toNat →
          sel.high = s.chipSel.high) ∧
        (fn ≠ 1 ∨ s.cfg.regWinMid.toNat < addr.toNat ∨ addr.toNat + bytes.length ≤ s.cfg.regWinMid.toNat →
          sel.mid = s.chipSel.mid) ∧
        (fn ≠ 1 ∨ s.cfg.regWinLow.toNat < addr.toNat ∨ addr.toNat + bytes.length ≤ s.cfg.regWinLow.toNat →
          sel.low = s.chipSel.low))

/-- The command words of the three named functions, run as operations (the model's choice, log 11 and 12): one
transaction each, as MemRead and MemWrite make it (R151, R152). What the chip's selector registers hold after CMD.WR.BP is
the model's choice too (log 19). -/
def Obligations.CommandWordResults : Prop :=
  ∀ (s : State) (addr : BusAddr) (len : LenField) (back data : List Byte) (st : Word) (rest : List Answer),
    s.lock = false → len ≠ 0 → data.length = len.toNat →
    let read (fn : FnCode) (i : Instr) : Prop :=
      back.length = readLength fn len.toNat → (decStatus s.cfg st).dataNa = false →
      s.answers = reply s.cfg back st :: rest →
      exec i s = .next ({ s with lastStatus := st }.ends [readEvent s.cfg fn addr len.toNat back st] rest
        (.ok (.bytes (readData fn len.toNat back))))
    let write (fn : FnCode) (i : Instr) : Prop :=
      s.answers = reply s.cfg [] st :: rest →
      exec i s = .next ({ s with
          lastStatus := st
          chipSel := selectorsAfter s.cfg fn addr data s.chipSel }.ends
        [writeEvent s.cfg fn addr data st] rest (.ok .unit))
    read 0 (.cmdRdBus true addr len) ∧ read 1 (.cmdRdBp true addr len) ∧ read 2 (.cmdRdWlan true addr len) ∧
    write 0 (.cmdWrBus true addr len data) ∧ write 1 (.cmdWrBp true addr len data) ∧
    write 2 (.cmdWrWlan true addr len data)

/-- The command words no rule lets the engine issue: function 3 (R102), auto-increment 0 (R103, U4), length 0 (R104);
that they end in these results is the model's choice (log 12). -/
def Obligations.CommandWordRefusals : Prop :=
  ∀ (s : State) (autoinc : Bool) (addr : BusAddr) (len : LenField) (data : List Byte), s.lock = false →
    let refused (i : Instr) (which : Argument) : Prop :=
      exec i s = .next (s.ends [] s.answers (.err (.invalidArgument which)))
    refused (.cmdRdReserved autoinc addr len) .function ∧
    refused (.cmdWrReserved autoinc addr len data) .function ∧
    refused (.cmdRdBus false addr len) .operation ∧ refused (.cmdRdBp false addr len) .operation ∧
    refused (.cmdRdWlan false addr len) .operation ∧ refused (.cmdWrBus false addr len data) .operation ∧
    refused (.cmdWrBp false addr len data) .operation ∧ refused (.cmdWrWlan false addr len data) .operation ∧
    refused (.cmdRdBus true addr 0) .length ∧ refused (.cmdRdBp true addr 0) .length ∧
    refused (.cmdRdWlan true addr 0) .length ∧ refused (.cmdWrBus true addr 0 data) .length ∧
    refused (.cmdWrBp true addr 0 data) .length ∧ refused (.cmdWrWlan true addr 0 data) .length

/-! ### Backplane window -/

/-- R181, R182: SETWIN writes the selector registers that differ, in the order high, mid, low, one byte each, and then
holds the new window as valid. (The chip's selector registers: log 19.) -/
def Obligations.SetwinResult : Prop :=
  ∀ (s : State) (addr : Word) (sts : List Word) (rest : List Answer),
    s.cfg.wf = true → s.lock = false → sts.length = (s.selectorsDue addr).length →
    s.answers = sts.map (reply s.cfg []) ++ rest →
    exec (.setwin addr) s = .next ((s.selected addr sts).ends [] rest (.ok .unit))

/-- R183: how many transactions a SETWIN that returns Ok has issued. -/
def Obligations.SetwinTransactionCount : Prop :=
  ∀ (s t : State) (addr : Word), s.lock = false → exec (.setwin addr) s = .next t → t.result = some (.ok .unit) →
    transactions t.trace = transactions s.trace +
      if s.winValid = true then
        [3, 2, 1].countP fun k => wordByte (addr &&& 0xFFFF8000) k != wordByte s.win k
      else 3

/-- R182, R352: a SETWIN that fails failed on a selector write; it leaves the cache invalid with its old value, so that
the next SETWIN writes all three registers. -/
def Obligations.SetwinFailure : Prop :=
  ∀ (s t : State) (addr : Word) (e : Err), s.lock = false → exec (.setwin addr) s = .next t →
    t.result = some (.err e) →
    t.winValid = false ∧ t.win = s.win ∧
    (∃ reg ∈ [s.cfg.regWinHigh, s.cfg.regWinMid, s.cfg.regWinLow], e = .busFailure (writeCommand 1 reg 1)) ∧
    ∀ addr' : Word, (t.selectorsDue addr').map (·.1) = [s.cfg.regWinHigh, s.cfg.regWinMid, s.cfg.regWinLow]

/-- R185, R184: BPRD selects the window and reads the register at the window offset, with the 4-byte flag when the size
is 4; the value is zero-extended. (The chip's selector registers after the window writes: log 19.) -/
def Obligations.BprdResult : Prop :=
  ∀ (s : State) (addr : Word) (size : Nat) (sts : List Word) (back : List Byte) (st : Word) (rest : List Answer),
    s.cfg.wf = true → s.lock = false → size = 1 ∨ size = 2 ∨ size = 4 → addr.toNat % size = 0 →
    sts.length = (s.selectorsDue addr).length →
    s.answers = sts.map (reply s.cfg []) ++ reply s.cfg back st :: rest →
    back.length = 4 + roundup4 size → (decStatus s.cfg st).dataNa = false →
    let off : BusAddr := (addr &&& 0x7FFF).setWidth 17 ||| if size = 4 then s.cfg.bpFlag4B else 0
    ∃ v : Word,
      (∀ k < 4, wordByte v k = if k < size then byteAt back (4 + k) else 0) ∧
      exec (.bprd addr size) s = .next ({ s.selected addr sts with lastStatus := st }.ends
        [readEvent s.cfg 1 off size back st] rest (.ok (.word v)))

/-- R186, R184: BPWR selects the window and writes the `size` low bytes of the value at the window offset. (The selector
registers: log 19.) -/
def Obligations.BpwrResult : Prop :=
  ∀ (s : State) (addr : Word) (size : Nat) (value : Word) (sts : List Word) (st : Word) (rest : List Answer),
    s.cfg.wf = true → s.lock = false → size = 1 ∨ size = 2 ∨ size = 4 → addr.toNat % size = 0 →
    sts.length = (s.selectorsDue addr).length →
    s.answers = sts.map (reply s.cfg []) ++ reply s.cfg [] st :: rest →
    let off : BusAddr := (addr &&& 0x7FFF).setWidth 17 ||| if size = 4 then s.cfg.bpFlag4B else 0
    let d := [wordByte value 0, wordByte value 1, wordByte value 2, wordByte value 3].take size
    exec (.bpwr addr size value) s = .next ({ s.selected addr sts with
        lastStatus := st
        chipSel := selectorsAfter s.cfg 1 off d (s.selectorsFor addr) }.ends
      [writeEvent s.cfg 1 off d st] rest (.ok .unit))

/-- R188: BPRDBYTES selects the window and reads `n` bytes at the window offset, never with the 4-byte flag. (The chip's
selector registers after the window writes: log 19.) -/
def Obligations.BprdbytesResult : Prop :=
  ∀ (s : State) (addr : Word) (n : Nat) (sts : List Word) (back : List Byte) (st : Word) (rest : List Answer),
    s.cfg.wf = true → s.lock = false → 1 ≤ n → n ≤ s.cfg.bpMaxXfer → (addr &&& 0x7FFF).toNat + n ≤ 0x8000 →
    sts.length = (s.selectorsDue addr).length →
    s.answers = sts.map (reply s.cfg []) ++ reply s.cfg back st :: rest →
    back.length = 4 + roundup4 n → (decStatus s.cfg st).dataNa = false →
    exec (.bprdbytes addr n) s = .next ({ s.selected addr sts with lastStatus := st }.ends
      [readEvent s.cfg 1 ((addr &&& 0x7FFF).setWidth 17) n back st] rest (.ok (.bytes (slice back 4 (4 + n)))))

/-- R189: BPWRBYTES selects the window and writes its bytes at the window offset. (The selector registers: log 19.) -/
def Obligations.BpwrbytesResult : Prop :=
  ∀ (s : State) (addr : Word) (bytes : List Byte) (sts : List Word) (st : Word) (rest : List Answer),
    s.cfg.wf = true → s.lock = false → 1 ≤ bytes.length → bytes.length ≤ s.cfg.bpMaxXfer →
    (addr &&& 0x7FFF).toNat + bytes.length ≤ 0x8000 →
    sts.length = (s.selectorsDue addr).length →
    s.answers = sts.map (reply s.cfg []) ++ reply s.cfg [] st :: rest →
    exec (.bpwrbytes addr bytes) s = .next ({ s.selected addr sts with
        lastStatus := st
        chipSel := selectorsAfter s.cfg 1 ((addr &&& 0x7FFF).setWidth 17) bytes (s.selectorsFor addr) }.ends
      [writeEvent s.cfg 1 ((addr &&& 0x7FFF).setWidth 17) bytes st] rest (.ok .unit))

/-- R66, R185 to R189: the operand checks of the four backplane operations, in their order; a refused operation issues
nothing and changes nothing. -/
def Obligations.BackplaneRefusals : Prop :=
  ∀ (s : State) (addr value : Word) (size n : Nat) (bytes : List Byte), s.lock = false →
    let refused (i : Instr) (which : Argument) : Prop :=
      exec i s = .next (s.ends [] s.answers (.err (.invalidArgument which)))
    (¬ (size = 1 ∨ size = 2 ∨ size = 4) → refused (.bprd addr size) .size ∧ refused (.bpwr addr size value) .size) ∧
    (size = 1 ∨ size = 2 ∨ size = 4 → addr.toNat % size ≠ 0 →
      refused (.bprd addr size) .alignment ∧ refused (.bpwr addr size value) .alignment) ∧
    (n = 0 ∨ s.cfg.bpMaxXfer < n → refused (.bprdbytes addr n) .length) ∧
    (1 ≤ n → n ≤ s.cfg.bpMaxXfer → 0x8000 < (addr &&& 0x7FFF).toNat + n → refused (.bprdbytes addr n) .window) ∧
    (bytes.length = 0 ∨ s.cfg.bpMaxXfer < bytes.length → refused (.bpwrbytes addr bytes) .length) ∧
    (1 ≤ bytes.length → bytes.length ≤ s.cfg.bpMaxXfer → 0x8000 < (addr &&& 0x7FFF).toNat + bytes.length →
      refused (.bpwrbytes addr bytes) .window)

/-! ### Framer -/

/-- R211, R206, R209: with credit, TXCTL builds the frame in `ioctl_buf`, consumes one sequence number and makes one
write to the WLAN function. -/
def Obligations.TxctlResult : Prop :=
  ∀ (s : State) (body : List Byte) (st : Word) (rest : List Answer),
    s.lock = false → hasCredit s.seq s.creditMax = true → 16 ≤ body.length →
    roundup4 (12 + body.length) ≤ s.cfg.ioctlBufSize → 12 + body.length ≤ s.cfg.busMaxXfer →
    s.answers = reply s.cfg [] st :: rest →
    let size : Half := BitVec.ofNat 16 (12 + body.length)
    let frame := le16 size ++ le16 (~~~size) ++ [s.seq, 0, 0, 12, 0, 0, 0, 0] ++ body
    exec (.txctl body) s = .next ({ s with
        seq := s.seq + 1
        ioctlBuf := Memory.write s.ioctlBuf 0 (padWords frame)
        lastStatus := st }.ends
      [writeEvent s.cfg 2 s.cfg.wlanFifoAddr frame st] rest (.ok .unit))

/-- R212, R206 to R209: with credit, TXDATA consumes one sequence number and makes one write to the WLAN function: SDPCM
header, two zero bytes, BDC header, frame. -/
def Obligations.TxdataResult : Prop :=
  ∀ (s : State) (iface : Nat) (frame : List Byte) (st : Word) (rest : List Answer),
    s.lock = false → hasCredit s.seq s.creditMax = true → iface ≤ s.cfg.ifaceMax → 1 ≤ frame.length →
    18 + frame.length ≤ s.cfg.busMaxXfer → s.answers = reply s.cfg [] st :: rest →
    let size : Half := BitVec.ofNat 16 (18 + frame.length)
    let sent := le16 size ++ le16 (~~~size) ++ [s.seq, 2, 0, 14, 0, 0, 0, 0] ++ [0, 0] ++
      [s.cfg.bdcTxFlags, 0, BitVec.ofNat 8 iface, 0] ++ frame
    exec (.txdata iface frame) s = .next ({ s with seq := s.seq + 1, lastStatus := st }.ends
      [writeEvent s.cfg 2 s.cfg.wlanFifoAddr sent st] rest (.ok .unit))

/-- R210 to R212, R315: the checks of TXCTL and TXDATA, in their order, before the credit wait: a refused transmission
polls nothing and consumes no sequence number. (TXCTL's order is that of R211's pseudocode: log 21.) R142: a step on
frameAndSend with a channel that is neither control nor data refuses it. (The bytes of its submission: log 28.) -/
def Obligations.TransmitRefusals : Prop :=
  ∀ (s : State) (iface : Nat) (body frame : List Byte), s.lock = false →
    let refused (i : Instr) (e : Err) : Prop := exec i s = .next (s.ends [] s.answers (.err e))
    let noRoom : Prop := body.length < 16 ∨ s.cfg.ioctlBufSize < roundup4 (12 + body.length)
    (noRoom → refused (.txctl body) .bufferTooSmall) ∧
    (¬ noRoom → s.cfg.busMaxXfer < 12 + body.length → refused (.txctl body) (.invalidArgument .length)) ∧
    (s.cfg.ifaceMax < iface → refused (.txdata iface frame) (.invalidArgument .interface)) ∧
    (iface ≤ s.cfg.ifaceMax → frame.length = 0 ∨ s.cfg.busMaxXfer < 18 + frame.length →
      refused (.txdata iface frame) (.invalidArgument .length)) ∧
    ∀ (channelType ifaceByte : Byte) (rest : List Request), s.cfg.wf = true → body.length < 65536 →
      s.requests = ⟨.pseudo, 0 :: channelType :: ifaceByte :: (le16 (BitVec.ofNat 16 body.length) ++ body)⟩ :: rest →
      channelType ≠ 0 → channelType ≠ 2 →
      step s = .next ({ s with requests := rest }.ends [] s.answers (.err (.invalidArgument .channel)))

/-- R204: an instruction that sends a frame and has no credit makes `CREDIT_RETRIES` rounds of the credit wait, each a poll
and a sleep, and ends with CreditTimeout if none brings credit. The rounds absorb whatever a poll answers but a bus failure:
nothing, unavailable data, a function that is not ready, packets routed, dropped or rejected. The sequence number is not
consumed; an ioctl's ID is (R234). -/
def Obligations.CreditTimeout : Prop :=
  ∀ (i : Instr) (s : State) (as : List PollAnswers) (rest : List Answer),
    s.lock = false → sendPasses s.cfg i = true → as.length = s.cfg.creditRetries →
    s.answers = answersOf s.cfg as ++ rest →
    let before := s.prepared i
    let after := as.foldl State.creditRound before
    before.creditRounds as = true → hasCredit after.seq after.creditMax = false →
    exec i s = .next (after.ends [] rest (.err .creditTimeout)) ∧ after.seq = s.seq

/-- R204: credit that a polled packet brings, of whatever channel, ends the credit wait, and the frame goes out with the
sequence number it had. TXCTL and TXDATA are then done; an ioctl operation goes on to its response wait, whose rounds absorb
every poll but a bus failure and the response (R238), and ends with what the response gives (R236, R237). -/
def Obligations.CreditArrives : Prop :=
  ∀ (i : Instr) (s : State) (as : List PollAnswers) (st : Word) (rest : List Answer),
    s.lock = false → sendPasses s.cfg i = true → as.length ≤ s.cfg.creditRetries →
    let before := s.prepared i
    let after := as.foldl State.creditRound before
    before.creditRounds as = true → hasCredit after.seq after.creditMax = true →
    after.seq = s.seq ∧
    ((∃ body, i = .txctl body) ∨ (∃ iface frame, i = .txdata iface frame) →
      s.answers = answersOf s.cfg as ++ reply s.cfg [] st :: rest →
      exec i s = .next ((after.transmitted st i).ends [] rest (.ok .unit))) ∧
    ∀ (bs : List PollAnswers) (q : Poll), ioctlPasses s.cfg i = true →
      s.answers = answersOf s.cfg as ++ reply s.cfg [] st :: (answersOf s.cfg bs ++ (q.answers s.cfg ++ rest)) →
      bs.length < s.cfg.ioctlRetries → (after.transmitted st i).ioctlRounds bs = true →
      q.finds s.cfg = true → respondsTo (s.ioctlId + 1) (q.packet s.cfg) = true →
      let answered := (bs.foldl State.ioctlRound (after.transmitted st i)).received q
      let status := (cdcOf (q.packet s.cfg)).status
      (status = 0 →
        exec i s = .next (answered.ends [] rest (.ok (ioctlAnswer (controlPayload (q.packet s.cfg)) i)))) ∧
      (status ≠ 0 → exec i s = .next (answered.ends [] rest (.err (.chipError status))))

/-- R206, R213, R357: TXCTL and TXDATA hand the chip one frame exactly when they consume a sequence number, and then
they had credit; whether they succeed or not. -/
def Obligations.NoFrameWithoutCredit : Prop :=
  ∀ (i : Instr) (s t : State), (∃ body, i = .txctl body) ∨ (∃ iface frame, i = .txdata iface frame) →
    exec i s = .next t →
    (t.seq = s.seq ∧ frameWrites s.cfg t.trace = frameWrites s.cfg s.trace) ∨
    (t.seq = s.seq + 1 ∧ hasCredit s.seq t.creditMax = true ∧
      frameWrites s.cfg t.trace = frameWrites s.cfg s.trace + 1)

/-! ### Ioctls -/

/-- R234 to R241: IOCTLSET and IOCTLGET send a set or get request under the next ID. A response with that ID ends them:
with status 0, IOCTLSET with nothing and IOCTLGET with as much of the payload as fits its buffer; with another status,
both with ChipError and that status. -/
def Obligations.IoctlResults : Prop :=
  ∀ (s : State) (cmd : Word) (iface : Nat) (data : List Byte) (st : Word) (p : Poll) (rest : List Answer),
    s.lock = false → hasCredit s.seq s.creditMax = true → s.cfg.ioctlRetries ≠ 0 →
    requestFits s.cfg cmd iface data.length = true →
    p.finds s.cfg = true → respondsTo (s.ioctlId + 1) (p.packet s.cfg) = true →
    s.answers = reply s.cfg [] st :: (p.answers s.cfg ++ rest) →
    let status := (cdcOf (p.packet s.cfg)).status
    let payload := controlPayload (p.packet s.cfg)
    let n := min data.length payload.length
    let set (r : Result) : Prop :=
      exec (.ioctlset cmd iface data) s = .next (((s.requested 1 cmd iface data st).received p).ends [] rest r)
    let get (r : Result) : Prop :=
      exec (.ioctlget cmd iface data) s = .next (((s.requested 0 cmd iface data st).received p).ends [] rest r)
    (status = 0 → set (.ok .unit) ∧ get (.ok (.counted n (payload.take n)))) ∧
    (status ≠ 0 → set (.err (.chipError status)) ∧ get (.err (.chipError status)))

/-- R244, R245: IOVARSET marshals name, NUL and value into `iovar_buf` and sends them as a set request with command
`WLC_SET_VAR`; a response with another status than 0 gives ChipError and that status (R237). -/
def Obligations.IovarsetResult : Prop :=
  ∀ (s : State) (name : List Byte) (iface : Nat) (value : List Byte) (st : Word) (p : Poll) (rest : List Answer),
    s.lock = false → hasCredit s.seq s.creditMax = true → s.cfg.ioctlRetries ≠ 0 → nameFits name = true →
    let m := name ++ [0] ++ value
    requestFits s.cfg s.cfg.wlcSetVar iface m.length = true → m.length ≤ s.cfg.iovarBufSize →
    p.finds s.cfg = true → respondsTo (s.ioctlId + 1) (p.packet s.cfg) = true →
    s.answers = reply s.cfg [] st :: (p.answers s.cfg ++ rest) →
    let status := (cdcOf (p.packet s.cfg)).status
    let ended (r : Result) : Prop :=
      exec (.iovarset name iface value) s = .next
        ((({ s with iovarBuf := Memory.write s.iovarBuf 0 m }.requested 1 s.cfg.wlcSetVar iface m st).received p).ends
          [] rest r)
    (status = 0 → ended (.ok .unit)) ∧ (status ≠ 0 → ended (.err (.chipError status)))

/-- R244, R246: IOVARGET marshals name and NUL, sends them as a get request with command `WLC_GET_VAR` and answers the
whole payload of the response; a response with another status than 0 gives ChipError and that status (R237). -/
def Obligations.IovargetResult : Prop :=
  ∀ (s : State) (name : List Byte) (iface : Nat) (st : Word) (p : Poll) (rest : List Answer),
    s.lock = false → hasCredit s.seq s.creditMax = true → s.cfg.ioctlRetries ≠ 0 → nameFits name = true →
    let m := name ++ [0]
    requestFits s.cfg s.cfg.wlcGetVar iface m.length = true → m.length ≤ s.cfg.iovarBufSize →
    p.finds s.cfg = true → respondsTo (s.ioctlId + 1) (p.packet s.cfg) = true →
    s.answers = reply s.cfg [] st :: (p.answers s.cfg ++ rest) →
    let status := (cdcOf (p.packet s.cfg)).status
    let ended (r : Result) : Prop :=
      exec (.iovarget name iface) s = .next
        ((({ s with iovarBuf := Memory.write s.iovarBuf 0 m }.requested 0 s.cfg.wlcGetVar iface m st).received p).ends
          [] rest r)
    (status = 0 → ended (.ok (.bytes (controlPayload (p.packet s.cfg))))) ∧
      (status ≠ 0 → ended (.err (.chipError status)))

/-- R232, R233, R244 to R246: the checks of the ioctl operations in their order: for an iovar its name and `iovar_buf` come
first, then for all four the interface, the command, the length and `ioctl_buf`; a refused operation changes nothing, the ID
included. (The order of the last four: log 22.) -/
def Obligations.IoctlRefusals : Prop :=
  ∀ (s : State) (cmd : Word) (iface : Nat) (data name value : List Byte), s.lock = false →
    let refused (i : Instr) (e : Err) : Prop := exec i s = .next (s.ends [] s.answers (.err e))
    let both (e : Err) : Prop := refused (.ioctlset cmd iface data) e ∧ refused (.ioctlget cmd iface data) e
    (s.cfg.ifaceMax < iface → both (.invalidArgument .interface)) ∧
    (iface ≤ s.cfg.ifaceMax → s.cfg.cmdValid.valid cmd = false → both (.invalidArgument .command)) ∧
    (iface ≤ s.cfg.ifaceMax → s.cfg.cmdValid.valid cmd = true → s.cfg.busMaxXfer < 28 + data.length →
      both (.invalidArgument .length)) ∧
    (iface ≤ s.cfg.ifaceMax → s.cfg.cmdValid.valid cmd = true → 28 + data.length ≤ s.cfg.busMaxXfer →
      s.cfg.ioctlBufSize < roundup4 (28 + data.length) → both .bufferTooSmall) ∧
    (name = [] ∨ 0 ∈ name → refused (.iovarset name iface value) (.invalidArgument .name) ∧
      refused (.iovarget name iface) (.invalidArgument .name)) ∧
    (¬ (name = [] ∨ 0 ∈ name) →
      let checked (cmd : Word) (i : Instr) (n : Nat) : Prop :=
        (s.cfg.iovarBufSize < n → refused i .bufferTooSmall) ∧
        (n ≤ s.cfg.iovarBufSize →
          (s.cfg.ifaceMax < iface → refused i (.invalidArgument .interface)) ∧
          (iface ≤ s.cfg.ifaceMax →
            (s.cfg.cmdValid.valid cmd = false → refused i (.invalidArgument .command)) ∧
            (s.cfg.cmdValid.valid cmd = true → s.cfg.busMaxXfer < 28 + n → refused i (.invalidArgument .length)) ∧
            (s.cfg.cmdValid.valid cmd = true → 28 + n ≤ s.cfg.busMaxXfer → s.cfg.ioctlBufSize < roundup4 (28 + n) →
              refused i .bufferTooSmall)))
      checked s.cfg.wlcSetVar (.iovarset name iface value) (name.length + 1 + value.length) ∧
        checked s.cfg.wlcGetVar (.iovarget name iface) (name.length + 1))

/-- R236, R238: in each of the four ioctl operations a response with another ID is logged and dropped and the wait goes
on: the response after it ends it. -/
def Obligations.IoctlWrongId : Prop :=
  ∀ (i : Instr) (s : State) (st : Word) (p q : Poll) (rest : List Answer),
    s.lock = false → hasCredit s.seq s.creditMax = true → 2 ≤ s.cfg.ioctlRetries → ioctlPasses s.cfg i = true →
    p.finds s.cfg = true → controlPacket (p.packet s.cfg) = true →
    idOf (cdcOf (p.packet s.cfg)).flags ≠ s.ioctlId + 1 →
    q.finds s.cfg = true → respondsTo (s.ioctlId + 1) (q.packet s.cfg) = true →
    (cdcOf (q.packet s.cfg)).status = 0 →
    s.answers = reply s.cfg [] st :: (p.answers s.cfg ++ (q.answers s.cfg ++ rest)) →
    let dropped := (s.asked st i).received p
    exec i s = .next
      (({ dropped with trace := dropped.trace ++ [PortEvent.log .wrongId, .sleep s.cfg.ioctlSleep] }.received q).ends
        [] rest (.ok (ioctlAnswer (controlPayload (q.packet s.cfg)) i)))

/-- R238: in each of the four ioctl operations `IOCTL_RETRIES` rounds of the response wait, each a poll and a sleep, that
do not bring the response end it with IoctlPollTimeout. The rounds absorb whatever a poll answers but a bus failure:
nothing, unavailable data, a function that is not ready, packets routed, dropped or rejected, responses with another ID. Its
ID and its sequence number stay consumed. -/
def Obligations.IoctlTimeout : Prop :=
  ∀ (i : Instr) (s : State) (st : Word) (as : List PollAnswers) (rest : List Answer),
    s.lock = false → hasCredit s.seq s.creditMax = true → as.length = s.cfg.ioctlRetries →
    ioctlPasses s.cfg i = true → (s.asked st i).ioctlRounds as = true →
    s.answers = reply s.cfg [] st :: (answersOf s.cfg as ++ rest) →
    let after := as.foldl State.ioctlRound (s.asked st i)
    exec i s = .next (after.ends [] rest (.err .ioctlPollTimeout)) ∧
      after.ioctlId = s.ioctlId + 1 ∧ after.seq = s.seq + 1

/-- R234, R206, R305: however an ioctl operation ends, it has consumed at most one ID and at most one sequence number,
the number only after the ID and exactly when it handed the chip a frame. -/
def Obligations.RequestsConsumeIds : Prop :=
  ∀ (i : Instr) (s t : State),
    (∃ cmd iface data, i = .ioctlset cmd iface data) ∨ (∃ cmd iface buffer, i = .ioctlget cmd iface buffer) ∨
      (∃ name iface value, i = .iovarset name iface value) ∨ (∃ name iface, i = .iovarget name iface) →
    exec i s = .next t →
    (t.ioctlId = s.ioctlId ∧ t.seq = s.seq ∧ frameWrites s.cfg t.trace = frameWrites s.cfg s.trace) ∨
    (t.ioctlId = s.ioctlId + 1 ∧ t.seq = s.seq ∧ frameWrites s.cfg t.trace = frameWrites s.cfg s.trace) ∨
    (t.ioctlId = s.ioctlId + 1 ∧ t.seq = s.seq + 1 ∧
      frameWrites s.cfg t.trace = frameWrites s.cfg s.trace + 1)

/-! ### Receive path -/

/-- R261, R262: BUSPOLL stores the packet it reads in `rx_buf` and answers its length; the flags take the register's
underflow and overflow bits. -/
def Obligations.BuspollPacket : Prop :=
  ∀ (s : State) (p : Poll) (rest : List Answer),
    s.lock = false → p.finds s.cfg = true → s.answers = p.answers s.cfg ++ rest →
    let irq := irqValue s.cfg p.irqBack
    exec .buspoll s = .next ({ s with
        rxBuf := Memory.write s.rxBuf 0 (p.packet s.cfg)
        lastStatus := p.status
        flagUnderflow := s.flagUnderflow || irq &&& s.cfg.irqUnderflow != 0
        flagOverflow := s.flagOverflow || irq &&& s.cfg.irqOverflow != 0 }.ends
      (p.events s.cfg) rest (.ok (.len (p.len s.cfg))))

/-- R261 to R263, R315: what BUSPOLL answers when the first read reports no packet, in the order of the tests, and when
the packet read is unavailable, which leaves `rx_buf` untouched. -/
def Obligations.BuspollNoPacket : Prop :=
  (∀ (s : State) (back : List Byte) (st : Word) (rest : List Answer),
    s.lock = false → back.length = readLength 0 s.cfg.intStatusWidth → s.answers = reply s.cfg back st :: rest →
    let view := decStatus s.cfg st
    let polled (r : Result) (es : List PortEvent) : Prop :=
      exec .buspoll s = .next ((s.afterQuiet back st).ends es rest r)
    (view.dataNa = true → exec .buspoll s = .next ({ s with lastStatus := st }.ends
      [readEvent s.cfg 0 s.cfg.intStatusAddr s.cfg.intStatusWidth back st] rest (.noPacket .dataUnavailable))) ∧
    (view.dataNa = false →
      (irqValue s.cfg back &&& s.cfg.irqF2PacketAvailable = 0 → polled (.noPacket .nothing) []) ∧
      (irqValue s.cfg back &&& s.cfg.irqF2PacketAvailable ≠ 0 →
        (view.f2Ready = false → polled (.noPacket .f2NotReady) []) ∧
        (view.f2Ready = true → view.pktAvail = false ∨ view.pktLen = 0 → polled (.noPacket .nothing) []) ∧
        (view.f2Ready = true → view.pktAvail = true → view.pktLen ≠ 0 →
          s.cfg.busMaxXfer < view.pktLen ∨ s.cfg.rxBufSize < view.pktLen →
          polled (.err .bufferTooSmall) [.log .bufferTooSmall])))) ∧
  ∀ (s : State) (p : Poll) (rest : List Answer),
    s.lock = false → p.reads s.cfg = true → (decStatus s.cfg p.status).dataNa = true →
    s.answers = p.answers s.cfg ++ rest →
    exec .buspoll s = .next ((s.afterLost p).ends [] rest (.noPacket .dataUnavailable)) ∧ (s.afterLost p).rxBuf = s.rxBuf

/-- R264, R266, R269: RXONE on a control packet takes the header's credit and answers where the payload stands and the
CDC header. -/
def Obligations.RxoneControl : Prop :=
  ∀ (s : State) (len : Nat), s.lock = false → len ≤ s.cfg.rxBufSize →
    let b := s.bufSlice .rx 0 len
    controlPacket b = true →
    exec (.rxone len) s = .next ({ s with creditMax := (headerOf b).busCredit }.ends [] s.answers
      (.ok (.packet (.control (subHeader b + 16) (frameSize b - (subHeader b + 16)) (cdcOf b)))))

/-- R264, R266, R270 to R272: RXONE on a data packet and on an event packet, valid or not, takes the header's credit and
answers where the payload stands. -/
def Obligations.RxoneDataAndEvent : Prop :=
  ∀ (s : State) (len : Nat), s.lock = false → len ≤ s.cfg.rxBufSize →
    let b := s.bufSlice .rx 0 len
    let parsed (k : Packet) : Prop :=
      exec (.rxone len) s = .next ({ s with creditMax := (headerOf b).busCredit }.ends [] s.answers (.ok (.packet k)))
    (bdcPacket 2 b = true → parsed (.data (bdcStart b) (frameSize b - bdcStart b))) ∧
    (bdcPacket 1 b = true → marked s.cfg (bdcPayloadOf b) → parsed (.event (bdcStart b) (frameSize b - bdcStart b))) ∧
    (bdcPacket 1 b = true → ¬ marked s.cfg (bdcPayloadOf b) → parsed (.dropped .eventInvalid))

/-- R264 to R270, R315: the errors of RXONE, in the order of the checks; the credit is taken from every header that
passes the complement test, and from no other. -/
def Obligations.RxoneRejects : Prop :=
  ∀ (s : State) (len : Nat), s.lock = false →
    let b := s.bufSlice .rx 0 len
    let h := headerOf b
    let chan := h.chanFlags.toNat % 16
    let kept (e : Err) : Prop := exec (.rxone len) s = .next (s.ends [] s.answers (.err e))
    let taken (e : Err) : Prop :=
      exec (.rxone len) s = .next ({ s with creditMax := h.busCredit }.ends [] s.answers (.err e))
    (s.cfg.rxBufSize < len → kept (.invalidArgument .length)) ∧
    (len ≤ s.cfg.rxBufSize →
      (len < 12 → kept .shortPacket) ∧
      (12 ≤ len → h.size ≠ ~~~h.sizeCom → kept .corruptHeader) ∧
      (12 ≤ len → h.size = ~~~h.sizeCom → h.headerLength.toNat < 12 → taken .corruptHeader) ∧
      (12 ≤ len → h.size = ~~~h.sizeCom → 12 ≤ h.headerLength.toNat → h.size.toNat < 12 ∨ len < h.size.toNat →
        taken .shortPacket) ∧
      (framed b = true → 3 ≤ chan → taken (.unknownChannel chan)) ∧
      (framed b = true → chan = 0 → frameSize b < subHeader b + 16 → taken .shortPacket) ∧
      (framed b = true → chan = 1 ∨ chan = 2 → frameSize b < subHeader b + 4 → taken .shortPacket) ∧
      (framed b = true → chan = 1 ∨ chan = 2 → subHeader b + 4 ≤ frameSize b → frameSize b < bdcStart b →
        taken .malformedBdc))

/-- R276, R278: POLLONCE answers true for a packet it has classified: a control packet goes nowhere, a data packet to the
Ethernet delivery port if a callback is registered, a valid event to the event delivery port. -/
def Obligations.PollonceDelivers : Prop :=
  ∀ (s : State) (p : Poll) (rest : List Answer),
    s.lock = false → p.finds s.cfg = true → s.answers = p.answers s.cfg ++ rest → s.reentries = [] →
    let b := p.packet s.cfg
    let polled (es : List PortEvent) : Prop :=
      exec .pollonce s = .next ((s.received p).ends es rest (.ok (.bool true)))
    (controlPacket b = true → polled []) ∧
    (bdcPacket 2 b = true → s.cbSet = true → polled [.deliverEth (bdcPayloadOf b)]) ∧
    (bdcPacket 2 b = true → s.cbSet = false → polled []) ∧
    (bdcPacket 1 b = true → marked s.cfg (bdcPayloadOf b) → polled [.deliverEvt (bdcPayloadOf b)])

/-- R276, R278: POLLONCE answers false when the poll reports no packet, for any of the three reasons of R263 and at either
read, and when it drops the packet; it returns the hard errors, which it has logged, in the order of RXONE's checks
(R315). -/
def Obligations.PollonceDrops : Prop :=
  (∀ (s : State) (back : List Byte) (st : Word) (rest : List Answer),
    s.lock = false → back.length = readLength 0 s.cfg.intStatusWidth → s.answers = reply s.cfg back st :: rest →
    let view := decStatus s.cfg st
    let polled (es : List PortEvent) (r : Result) : Prop :=
      exec .pollonce s = .next ((s.afterQuiet back st).ends es rest r)
    (view.dataNa = true → exec .pollonce s = .next ({ s with lastStatus := st }.ends
      [readEvent s.cfg 0 s.cfg.intStatusAddr s.cfg.intStatusWidth back st] rest (.ok (.bool false)))) ∧
    (view.dataNa = false →
      (irqValue s.cfg back &&& s.cfg.irqF2PacketAvailable = 0 → polled [] (.ok (.bool false))) ∧
      (irqValue s.cfg back &&& s.cfg.irqF2PacketAvailable ≠ 0 →
        (view.f2Ready = false → polled [] (.ok (.bool false))) ∧
        (view.f2Ready = true → view.pktAvail = false ∨ view.pktLen = 0 → polled [] (.ok (.bool false))) ∧
        (view.f2Ready = true → view.pktAvail = true → view.pktLen ≠ 0 →
          s.cfg.busMaxXfer < view.pktLen ∨ s.cfg.rxBufSize < view.pktLen →
          polled [.log .bufferTooSmall] (.err .bufferTooSmall))))) ∧
  (∀ (s : State) (p : Poll) (rest : List Answer),
    s.lock = false → p.reads s.cfg = true → (decStatus s.cfg p.status).dataNa = true →
    s.answers = p.answers s.cfg ++ rest →
    exec .pollonce s = .next ((s.afterLost p).ends [] rest (.ok (.bool false)))) ∧
  ∀ (s : State) (p : Poll) (rest : List Answer),
    s.lock = false → p.finds s.cfg = true → s.answers = p.answers s.cfg ++ rest →
    let b := p.packet s.cfg
    let h := headerOf b
    let chan := h.chanFlags.toNat % 16
    let polled (t : State) (es : List PortEvent) (r : Result) : Prop := exec .pollonce s = .next (t.ends es rest r)
    let short (t : State) : Prop := polled t [.log .shortPacket] (.err .shortPacket)
    let corrupt (t : State) : Prop := polled t [.log .corruptHeader] (.ok (.bool false))
    (b.length < 12 → short (s.afterPoll p)) ∧
    (12 ≤ b.length → h.size ≠ ~~~h.sizeCom → corrupt (s.afterPoll p)) ∧
    (12 ≤ b.length → h.size = ~~~h.sizeCom →
      (h.headerLength.toNat < 12 → corrupt (s.received p)) ∧
      (12 ≤ h.headerLength.toNat → h.size.toNat < 12 ∨ b.length < h.size.toNat → short (s.received p))) ∧
    (framed b = true →
      (3 ≤ chan → polled (s.received p) [.log .unknownChannel] (.err (.unknownChannel chan))) ∧
      (chan = 0 → frameSize b < subHeader b + 16 → short (s.received p)) ∧
      (chan = 1 ∨ chan = 2 →
        (frameSize b < subHeader b + 4 → short (s.received p)) ∧
        (subHeader b + 4 ≤ frameSize b → frameSize b < bdcStart b →
          polled (s.received p) [.log .malformedBdc] (.ok (.bool false))))) ∧
    (bdcPacket 1 b = true → ¬ marked s.cfg (bdcPayloadOf b) → polled (s.received p) [] (.ok (.bool false)))

/-- R291, R356: if the host submits an operation from inside any delivery, of a data or of an event packet, made by POLLONCE,
in the credit wait of an instruction that sends or in the response wait of an ioctl operation, the engine is stuck: the
lock stays held, no result appears, and no later operation changes anything (the model's form of it: log 6). -/
def Obligations.ReentryIsStuck : Prop :=
  ∀ (i : Instr) (s : State) (as : List PollAnswers) (p : Poll) (e : PortEvent) (st : Word) (rest : List Answer)
    (more : List Bool), s.lock = false → p.finds s.cfg = true →
    let stuck (from_ : State) : Prop :=
      delivery s.cfg from_.cbSet (p.packet s.cfg) = some e → from_.reentries = true :: more →
      ∃ t, exec i s = .next t ∧ t.lock = true ∧ t.result = none ∧ t.reentries = more ∧ t.answers = rest ∧
        t.trace = from_.trace ++ p.events s.cfg ++ [e] ∧ ∀ j : Instr, exec j t = .next t
    (i = .pollonce → s.answers = p.answers s.cfg ++ rest → stuck s) ∧
    (sendPasses s.cfg i = true → s.answers = answersOf s.cfg as ++ (p.answers s.cfg ++ rest) →
      as.length < s.cfg.creditRetries → (s.prepared i).creditRounds as = true →
      let waiting := as.foldl State.creditRound (s.prepared i)
      hasCredit waiting.seq waiting.creditMax = false → stuck waiting) ∧
    (ioctlPasses s.cfg i = true → hasCredit s.seq s.creditMax = true →
      s.answers = reply s.cfg [] st :: (answersOf s.cfg as ++ (p.answers s.cfg ++ rest)) →
      as.length < s.cfg.ioctlRetries → (s.asked st i).ioctlRounds as = true →
      stuck (as.foldl State.ioctlRound (s.asked st i)))

/-! ### Wire forms run as operations (the model's choice: log 11, 13 to 16) -/

/-- An SDPCM row stores its frame in `rx_buf` and parses it as RXONE does (R262, R264): control, event and data. -/
def Obligations.SdpcmRowsReceive : Prop :=
  ∀ (s : State) (form : SdpcmForm) (rest : List Byte), s.lock = false →
    12 + rest.length ≤ s.cfg.busMaxXfer → 12 + rest.length ≤ s.cfg.rxBufSize →
    let frame (chan : BitVec 4) : List Byte := encSdpcm (form.header chan) ++ rest
    let parsed (chan : BitVec 4) (i : Instr) (k : Packet) : Prop :=
      exec i s = .next ({ s with
          rxBuf := Memory.write s.rxBuf 0 (frame chan)
          creditMax := form.busCredit }.ends [] s.answers (.ok (.packet k)))
    (controlPacket (frame 0) = true → parsed 0 (.sdpcmControl form rest)
      (.control (subHeader (frame 0) + 16) (frameSize (frame 0) - (subHeader (frame 0) + 16)) (cdcOf (frame 0)))) ∧
    (bdcPacket 1 (frame 1) = true → marked s.cfg (bdcPayloadOf (frame 1)) → parsed 1 (.sdpcmEvent form rest)
      (.event (bdcStart (frame 1)) (frameSize (frame 1) - bdcStart (frame 1)))) ∧
    (bdcPacket 1 (frame 1) = true → ¬ marked s.cfg (bdcPayloadOf (frame 1)) →
      parsed 1 (.sdpcmEvent form rest) (.dropped .eventInvalid)) ∧
    (bdcPacket 2 (frame 2) = true → parsed 2 (.sdpcmData form rest)
      (.data (bdcStart (frame 2)) (frameSize (frame 2) - bdcStart (frame 2))))

/-- An SDPCM row of an unknown channel takes the credit of a sound header and ends with UnknownChannel and the channel's
number (R268). -/
def Obligations.SdpcmUnknownRows : Prop :=
  ∀ (s : State) (form : SdpcmForm) (rest : List Byte), s.lock = false →
    12 + rest.length ≤ s.cfg.busMaxXfer → 12 + rest.length ≤ s.cfg.rxBufSize →
    let rejected (chan : Nat) (i : Instr) : Prop :=
      framed (encSdpcm (form.header (BitVec.ofNat 4 chan)) ++ rest) = true →
      exec i s = .next ({ s with
          rxBuf := Memory.write s.rxBuf 0 (encSdpcm (form.header (BitVec.ofNat 4 chan)) ++ rest)
          creditMax := form.busCredit }.ends [] s.answers (.err (.unknownChannel chan)))
    rejected 3 (.sdpcmUnknown3 form rest) ∧ rejected 4 (.sdpcmUnknown4 form rest) ∧
    rejected 5 (.sdpcmUnknown5 form rest) ∧ rejected 6 (.sdpcmUnknown6 form rest) ∧
    rejected 7 (.sdpcmUnknown7 form rest) ∧ rejected 8 (.sdpcmUnknown8 form rest) ∧
    rejected 9 (.sdpcmUnknown9 form rest) ∧ rejected 10 (.sdpcmUnknown10 form rest) ∧
    rejected 11 (.sdpcmUnknown11 form rest) ∧ rejected 12 (.sdpcmUnknown12 form rest) ∧
    rejected 13 (.sdpcmUnknown13 form rest) ∧ rejected 14 (.sdpcmUnknown14 form rest) ∧
    rejected 15 (.sdpcmUnknown15 form rest)

/-- The STATUS row keeps the word and answers its decoded view (R31, R105). A CDC row answers the header, its kind at bit
1 of the flags, and the bytes after it (R122, R123), and as no wait is pending it matches nothing: no log, no change (R48,
R277). The BDC row answers the header and where the payload starts after it (R131). -/
def Obligations.HeaderRows : Prop :=
  ∀ (s : State) (word : Word) (form : CdcForm) (payload : List Byte) (h : BdcHeader), s.lock = false →
    let header (kind : BitVec 1) : CdcHeader :=
      ⟨form.cmd, form.length, form.id ++ form.iface ++ form.gap ++ kind ++ form.bit0, form.status⟩
    exec (.status word) s = .next ({ s with lastStatus := word }.ends [] s.answers (.ok (.status
      { dataNa := word &&& s.cfg.stDataNotAvailable != 0
        underflow := word &&& s.cfg.stUnderflow != 0
        overflow := word &&& s.cfg.stOverflow != 0
        f2Ready := word &&& s.cfg.stF2RxReady != 0
        pktAvail := word &&& s.cfg.stF2PktAvailable != 0
        pktLen := word.toNat / 2 ^ s.cfg.stF2PktLenShift % 2 ^ s.cfg.stF2PktLenBits }))) ∧
    exec (.cdcGet form payload) s = .next (s.ends [] s.answers (.ok (.cdc (header 0) payload))) ∧
    exec (.cdcSet form payload) s = .next (s.ends [] s.answers (.ok (.cdc (header 1) payload))) ∧
    exec (.bdc h) s = .next (s.ends [] s.answers (.ok (.bdc h (4 + 4 * h.dataOffset.toNat))))
end

