-- ==== Sys2Proof/Laws/Bytes.lean ====
section
/-! SUPPORT. Laws/Bytes.lean: lengths and byte orders. -/

namespace Sys2Proof.Machine

@[simp] theorem zeros_length (n : Nat) : (zeros n).length = n := by simp [zeros]

@[simp] theorem le16_length (v : Half) : (le16 v).length = 2 := rfl

@[simp] theorem le32_length (v : Word) : (le32 v).length = 4 := rfl

@[simp] theorem be32_length (v : Word) : (be32 v).length = 4 := rfl

@[simp] theorem ser32_length (wo : WireOrder) (v : Word) : (ser32 wo v).length = 4 := by cases wo <;> rfl

@[simp] theorem encSdpcm_length (h : SdpcmHeader) : (encSdpcm h).length = 12 := rfl

@[simp] theorem encCdc_length (c : CdcHeader) : (encCdc c).length = 16 := rfl

@[simp] theorem encBdc_length (h : BdcHeader) : (encBdc h).length = 4 := rfl

theorem le_roundup4 (n : Nat) : n ≤ roundup4 n := by unfold roundup4; omega

theorem roundup4_le {n m : Nat} (h : n ≤ m) (hm : m % 4 = 0) : roundup4 n ≤ m := by unfold roundup4; omega

@[simp] theorem padWords_length (d : List Byte) : (padWords d).length = roundup4 d.length := by
  have := le_roundup4 d.length
  simp only [padWords, List.length_append, zeros_length]
  omega

theorem padWords_take (d : List Byte) : (padWords d).take d.length = d := by simp [padWords]

@[simp] theorem fit_length (n : Nat) (b : List Byte) : (fit n b).length = n := by
  simp only [fit, List.length_take, List.length_append, zeros_length]
  omega

/-- Bytes that are already as many as asked for stay as they are. -/
theorem fit_eq {n : Nat} {b : List Byte} (h : b.length = n) : fit n b = b := by
  subst h
  simp [fit, zeros]

theorem getLe32_le32 (v : Word) (rest : List Byte) : getLe32 (le32 v ++ rest) 0 = v := by
  simp only [getLe32, le32, wordByte, byteAt, List.cons_append, List.getD_cons_succ, List.getD_cons_zero]
  ext i hi
  simp only [BitVec.getElem_append, BitVec.getElem_extractLsb']
  split <;> [skip; split <;> [skip; split]] <;> rw [← BitVec.getLsbD_eq_getElem] <;> congr 1 <;> omega

theorem getBe32_be32 (v : Word) (rest : List Byte) : getBe32 (be32 v ++ rest) 0 = v := by
  simp only [getBe32, be32, wordByte, byteAt, List.cons_append, List.getD_cons_succ, List.getD_cons_zero]
  ext i hi
  simp only [BitVec.getElem_append, BitVec.getElem_extractLsb']
  split <;> [skip; split <;> [skip; split]] <;> rw [← BitVec.getLsbD_eq_getElem] <;> congr 1 <;> omega

theorem getLe16_le16 (v : Half) (rest : List Byte) : getLe16 (le16 v ++ rest) 0 = v := by
  simp only [getLe16, le16, byteAt, List.cons_append, List.getD_cons_succ, List.getD_cons_zero]
  ext i hi
  simp only [BitVec.getElem_append, BitVec.getElem_extractLsb']
  split <;> rw [← BitVec.getLsbD_eq_getElem] <;> congr 1 <;> omega

/-- `de32` undoes `ser32` (R8), whatever stands after the four bytes. -/
theorem de32_ser32_append (wo : WireOrder) (v : Word) (rest : List Byte) :
    de32 wo (ser32 wo v ++ rest) = v := by
  cases wo
  · exact getLe32_le32 v rest
  · exact getBe32_be32 v rest

theorem de32_ser32 (wo : WireOrder) (v : Word) : de32 wo (ser32 wo v) = v := by
  simpa using de32_ser32_append wo v []

theorem byteAt_append_left {a b : List Byte} {i : Nat} (h : i < a.length) : byteAt (a ++ b) i = byteAt a i := by
  simp [byteAt, List.getElem?_append_left h]

theorem byteAt_append_right {a b : List Byte} {i : Nat} (h : a.length ≤ i) :
    byteAt (a ++ b) i = byteAt b (i - a.length) := by
  simp [byteAt, List.getElem?_append_right h]

end Sys2Proof.Machine
end

