-- ==== Sys2Proof/Laws/State.lean ====
section
/-! SUPPORT. Laws/State.lean: one lemma for each field of each update of the state. -/

namespace Sys2Proof.Machine

/-! ### emit -/

@[simp] theorem State.emit_cfg (s : State) (e : PortEvent) : (s.emit e).cfg = s.cfg := rfl
@[simp] theorem State.emit_lock (s : State) (e : PortEvent) : (s.emit e).lock = s.lock := rfl
@[simp] theorem State.emit_win (s : State) (e : PortEvent) : (s.emit e).win = s.win := rfl
@[simp] theorem State.emit_winValid (s : State) (e : PortEvent) : (s.emit e).winValid = s.winValid := rfl
@[simp] theorem State.emit_seq (s : State) (e : PortEvent) : (s.emit e).seq = s.seq := rfl
@[simp] theorem State.emit_creditMax (s : State) (e : PortEvent) : (s.emit e).creditMax = s.creditMax := rfl
@[simp] theorem State.emit_ioctlId (s : State) (e : PortEvent) : (s.emit e).ioctlId = s.ioctlId := rfl
@[simp] theorem State.emit_ioctlBuf (s : State) (e : PortEvent) : (s.emit e).ioctlBuf = s.ioctlBuf := rfl
@[simp] theorem State.emit_iovarBuf (s : State) (e : PortEvent) : (s.emit e).iovarBuf = s.iovarBuf := rfl
@[simp] theorem State.emit_rxBuf (s : State) (e : PortEvent) : (s.emit e).rxBuf = s.rxBuf := rfl
@[simp] theorem State.emit_lastStatus (s : State) (e : PortEvent) : (s.emit e).lastStatus = s.lastStatus := rfl
@[simp] theorem State.emit_cbSet (s : State) (e : PortEvent) : (s.emit e).cbSet = s.cbSet := rfl
@[simp] theorem State.emit_flagUnderflow (s : State) (e : PortEvent) :
    (s.emit e).flagUnderflow = s.flagUnderflow := rfl
@[simp] theorem State.emit_flagOverflow (s : State) (e : PortEvent) : (s.emit e).flagOverflow = s.flagOverflow := rfl
@[simp] theorem State.emit_phase (s : State) (e : PortEvent) : (s.emit e).phase = s.phase.tick := rfl
@[simp] theorem State.emit_chipSel (s : State) (e : PortEvent) : (s.emit e).chipSel = s.chipSel := rfl
@[simp] theorem State.emit_requests (s : State) (e : PortEvent) : (s.emit e).requests = s.requests := rfl
@[simp] theorem State.emit_result (s : State) (e : PortEvent) : (s.emit e).result = s.result := rfl
@[simp] theorem State.emit_answers (s : State) (e : PortEvent) : (s.emit e).answers = s.answers := rfl
@[simp] theorem State.emit_draws (s : State) (e : PortEvent) : (s.emit e).draws = s.draws := rfl
@[simp] theorem State.emit_reentries (s : State) (e : PortEvent) : (s.emit e).reentries = s.reentries := rfl
@[simp] theorem State.emit_trace (s : State) (e : PortEvent) : (s.emit e).trace = s.trace ++ [e] := rfl

/-! ### acquire -/

@[simp] theorem State.acquire_cfg (s : State) (i : Instr) : (s.acquire i).cfg = s.cfg := rfl
@[simp] theorem State.acquire_lock (s : State) (i : Instr) : (s.acquire i).lock = true := rfl
@[simp] theorem State.acquire_win (s : State) (i : Instr) : (s.acquire i).win = s.win := rfl
@[simp] theorem State.acquire_winValid (s : State) (i : Instr) : (s.acquire i).winValid = s.winValid := rfl
@[simp] theorem State.acquire_seq (s : State) (i : Instr) : (s.acquire i).seq = s.seq := rfl
@[simp] theorem State.acquire_creditMax (s : State) (i : Instr) : (s.acquire i).creditMax = s.creditMax := rfl
@[simp] theorem State.acquire_ioctlId (s : State) (i : Instr) : (s.acquire i).ioctlId = s.ioctlId := rfl
@[simp] theorem State.acquire_ioctlBuf (s : State) (i : Instr) : (s.acquire i).ioctlBuf = s.ioctlBuf := rfl
@[simp] theorem State.acquire_iovarBuf (s : State) (i : Instr) : (s.acquire i).iovarBuf = s.iovarBuf := rfl
@[simp] theorem State.acquire_rxBuf (s : State) (i : Instr) : (s.acquire i).rxBuf = s.rxBuf := rfl
@[simp] theorem State.acquire_lastStatus (s : State) (i : Instr) : (s.acquire i).lastStatus = s.lastStatus := rfl
@[simp] theorem State.acquire_cbSet (s : State) (i : Instr) : (s.acquire i).cbSet = s.cbSet := rfl
@[simp] theorem State.acquire_flagUnderflow (s : State) (i : Instr) :
    (s.acquire i).flagUnderflow = s.flagUnderflow := rfl
@[simp] theorem State.acquire_flagOverflow (s : State) (i : Instr) :
    (s.acquire i).flagOverflow = s.flagOverflow := rfl
@[simp] theorem State.acquire_phase (s : State) (i : Instr) : (s.acquire i).phase = .run i 0 := rfl
@[simp] theorem State.acquire_chipSel (s : State) (i : Instr) : (s.acquire i).chipSel = s.chipSel := rfl
@[simp] theorem State.acquire_requests (s : State) (i : Instr) : (s.acquire i).requests = s.requests := rfl
@[simp] theorem State.acquire_result (s : State) (i : Instr) : (s.acquire i).result = none := rfl
@[simp] theorem State.acquire_answers (s : State) (i : Instr) : (s.acquire i).answers = s.answers := rfl
@[simp] theorem State.acquire_draws (s : State) (i : Instr) : (s.acquire i).draws = s.draws := rfl
@[simp] theorem State.acquire_reentries (s : State) (i : Instr) : (s.acquire i).reentries = s.reentries := rfl
@[simp] theorem State.acquire_trace (s : State) (i : Instr) : (s.acquire i).trace = s.trace := rfl

/-! ### release -/

@[simp] theorem State.release_cfg (s : State) (r : Result) : (s.release r).cfg = s.cfg := rfl
@[simp] theorem State.release_lock (s : State) (r : Result) : (s.release r).lock = false := rfl
@[simp] theorem State.release_win (s : State) (r : Result) : (s.release r).win = s.win := rfl
@[simp] theorem State.release_winValid (s : State) (r : Result) : (s.release r).winValid = s.winValid := rfl
@[simp] theorem State.release_seq (s : State) (r : Result) : (s.release r).seq = s.seq := rfl
@[simp] theorem State.release_creditMax (s : State) (r : Result) : (s.release r).creditMax = s.creditMax := rfl
@[simp] theorem State.release_ioctlId (s : State) (r : Result) : (s.release r).ioctlId = s.ioctlId := rfl
@[simp] theorem State.release_ioctlBuf (s : State) (r : Result) : (s.release r).ioctlBuf = s.ioctlBuf := rfl
@[simp] theorem State.release_iovarBuf (s : State) (r : Result) : (s.release r).iovarBuf = s.iovarBuf := rfl
@[simp] theorem State.release_rxBuf (s : State) (r : Result) : (s.release r).rxBuf = s.rxBuf := rfl
@[simp] theorem State.release_lastStatus (s : State) (r : Result) : (s.release r).lastStatus = s.lastStatus := rfl
@[simp] theorem State.release_cbSet (s : State) (r : Result) : (s.release r).cbSet = s.cbSet := rfl
@[simp] theorem State.release_flagUnderflow (s : State) (r : Result) :
    (s.release r).flagUnderflow = s.flagUnderflow := rfl
@[simp] theorem State.release_flagOverflow (s : State) (r : Result) :
    (s.release r).flagOverflow = s.flagOverflow := rfl
@[simp] theorem State.release_phase (s : State) (r : Result) : (s.release r).phase = .idle := rfl
@[simp] theorem State.release_chipSel (s : State) (r : Result) : (s.release r).chipSel = s.chipSel := rfl
@[simp] theorem State.release_requests (s : State) (r : Result) : (s.release r).requests = s.requests := rfl
@[simp] theorem State.release_result (s : State) (r : Result) : (s.release r).result = some r := rfl
@[simp] theorem State.release_answers (s : State) (r : Result) : (s.release r).answers = s.answers := rfl
@[simp] theorem State.release_draws (s : State) (r : Result) : (s.release r).draws = s.draws := rfl
@[simp] theorem State.release_reentries (s : State) (r : Result) : (s.release r).reentries = s.reentries := rfl
@[simp] theorem State.release_trace (s : State) (r : Result) : (s.release r).trace = s.trace := rfl

/-! ### noteIrq -/

@[simp] theorem State.noteIrq_cfg (s : State) (irq : Word) : (s.noteIrq irq).cfg = s.cfg := rfl
@[simp] theorem State.noteIrq_lock (s : State) (irq : Word) : (s.noteIrq irq).lock = s.lock := rfl
@[simp] theorem State.noteIrq_win (s : State) (irq : Word) : (s.noteIrq irq).win = s.win := rfl
@[simp] theorem State.noteIrq_winValid (s : State) (irq : Word) : (s.noteIrq irq).winValid = s.winValid := rfl
@[simp] theorem State.noteIrq_seq (s : State) (irq : Word) : (s.noteIrq irq).seq = s.seq := rfl
@[simp] theorem State.noteIrq_creditMax (s : State) (irq : Word) : (s.noteIrq irq).creditMax = s.creditMax := rfl
@[simp] theorem State.noteIrq_ioctlId (s : State) (irq : Word) : (s.noteIrq irq).ioctlId = s.ioctlId := rfl
@[simp] theorem State.noteIrq_ioctlBuf (s : State) (irq : Word) : (s.noteIrq irq).ioctlBuf = s.ioctlBuf := rfl
@[simp] theorem State.noteIrq_iovarBuf (s : State) (irq : Word) : (s.noteIrq irq).iovarBuf = s.iovarBuf := rfl
@[simp] theorem State.noteIrq_rxBuf (s : State) (irq : Word) : (s.noteIrq irq).rxBuf = s.rxBuf := rfl
@[simp] theorem State.noteIrq_lastStatus (s : State) (irq : Word) : (s.noteIrq irq).lastStatus = s.lastStatus := rfl
@[simp] theorem State.noteIrq_cbSet (s : State) (irq : Word) : (s.noteIrq irq).cbSet = s.cbSet := rfl
@[simp] theorem State.noteIrq_flagUnderflow (s : State) (irq : Word) :
    (s.noteIrq irq).flagUnderflow = (s.flagUnderflow || irqHas irq s.cfg.irqUnderflow) := rfl
@[simp] theorem State.noteIrq_flagOverflow (s : State) (irq : Word) :
    (s.noteIrq irq).flagOverflow = (s.flagOverflow || irqHas irq s.cfg.irqOverflow) := rfl
@[simp] theorem State.noteIrq_phase (s : State) (irq : Word) : (s.noteIrq irq).phase = s.phase := rfl
@[simp] theorem State.noteIrq_chipSel (s : State) (irq : Word) : (s.noteIrq irq).chipSel = s.chipSel := rfl
@[simp] theorem State.noteIrq_requests (s : State) (irq : Word) : (s.noteIrq irq).requests = s.requests := rfl
@[simp] theorem State.noteIrq_result (s : State) (irq : Word) : (s.noteIrq irq).result = s.result := rfl
@[simp] theorem State.noteIrq_answers (s : State) (irq : Word) : (s.noteIrq irq).answers = s.answers := rfl
@[simp] theorem State.noteIrq_draws (s : State) (irq : Word) : (s.noteIrq irq).draws = s.draws := rfl
@[simp] theorem State.noteIrq_reentries (s : State) (irq : Word) : (s.noteIrq irq).reentries = s.reentries := rfl
@[simp] theorem State.noteIrq_trace (s : State) (irq : Word) : (s.noteIrq irq).trace = s.trace := rfl

/-! ### zeroed -/

@[simp] theorem State.zeroed_cfg (s : State) : (s.zeroed).cfg = s.cfg := rfl
@[simp] theorem State.zeroed_lock (s : State) : (s.zeroed).lock = s.lock := rfl
@[simp] theorem State.zeroed_win (s : State) : (s.zeroed).win = 0 := rfl
@[simp] theorem State.zeroed_winValid (s : State) : (s.zeroed).winValid = true := rfl
@[simp] theorem State.zeroed_seq (s : State) : (s.zeroed).seq = 0 := rfl
@[simp] theorem State.zeroed_creditMax (s : State) : (s.zeroed).creditMax = 0 := rfl
@[simp] theorem State.zeroed_ioctlId (s : State) : (s.zeroed).ioctlId = 0 := rfl
@[simp] theorem State.zeroed_ioctlBuf (s : State) : (s.zeroed).ioctlBuf = s.ioctlBuf := rfl
@[simp] theorem State.zeroed_iovarBuf (s : State) : (s.zeroed).iovarBuf = s.iovarBuf := rfl
@[simp] theorem State.zeroed_rxBuf (s : State) : (s.zeroed).rxBuf = s.rxBuf := rfl
@[simp] theorem State.zeroed_lastStatus (s : State) : (s.zeroed).lastStatus = 0 := rfl
@[simp] theorem State.zeroed_cbSet (s : State) : (s.zeroed).cbSet = s.cbSet := rfl
@[simp] theorem State.zeroed_flagUnderflow (s : State) : (s.zeroed).flagUnderflow = false := rfl
@[simp] theorem State.zeroed_flagOverflow (s : State) : (s.zeroed).flagOverflow = false := rfl
@[simp] theorem State.zeroed_phase (s : State) : (s.zeroed).phase = s.phase := rfl
@[simp] theorem State.zeroed_chipSel (s : State) : (s.zeroed).chipSel = s.chipSel := rfl
@[simp] theorem State.zeroed_requests (s : State) : (s.zeroed).requests = s.requests := rfl
@[simp] theorem State.zeroed_result (s : State) : (s.zeroed).result = s.result := rfl
@[simp] theorem State.zeroed_answers (s : State) : (s.zeroed).answers = s.answers := rfl
@[simp] theorem State.zeroed_draws (s : State) : (s.zeroed).draws = s.draws := rfl
@[simp] theorem State.zeroed_reentries (s : State) : (s.zeroed).reentries = s.reentries := rfl
@[simp] theorem State.zeroed_trace (s : State) : (s.zeroed).trace = s.trace := rfl

/-! ### submit -/

@[simp] theorem State.submit_cfg (s : State) (r : Request) : (s.submit r).cfg = s.cfg := rfl
@[simp] theorem State.submit_lock (s : State) (r : Request) : (s.submit r).lock = false := rfl
@[simp] theorem State.submit_win (s : State) (r : Request) : (s.submit r).win = s.win := rfl
@[simp] theorem State.submit_winValid (s : State) (r : Request) : (s.submit r).winValid = s.winValid := rfl
@[simp] theorem State.submit_seq (s : State) (r : Request) : (s.submit r).seq = s.seq := rfl
@[simp] theorem State.submit_creditMax (s : State) (r : Request) : (s.submit r).creditMax = s.creditMax := rfl
@[simp] theorem State.submit_ioctlId (s : State) (r : Request) : (s.submit r).ioctlId = s.ioctlId := rfl
@[simp] theorem State.submit_ioctlBuf (s : State) (r : Request) : (s.submit r).ioctlBuf = s.ioctlBuf := rfl
@[simp] theorem State.submit_iovarBuf (s : State) (r : Request) : (s.submit r).iovarBuf = s.iovarBuf := rfl
@[simp] theorem State.submit_rxBuf (s : State) (r : Request) : (s.submit r).rxBuf = s.rxBuf := rfl
@[simp] theorem State.submit_lastStatus (s : State) (r : Request) : (s.submit r).lastStatus = s.lastStatus := rfl
@[simp] theorem State.submit_cbSet (s : State) (r : Request) : (s.submit r).cbSet = s.cbSet := rfl
@[simp] theorem State.submit_flagUnderflow (s : State) (r : Request) :
    (s.submit r).flagUnderflow = s.flagUnderflow := rfl
@[simp] theorem State.submit_flagOverflow (s : State) (r : Request) :
    (s.submit r).flagOverflow = s.flagOverflow := rfl
@[simp] theorem State.submit_phase (s : State) (r : Request) : (s.submit r).phase = .idle := rfl
@[simp] theorem State.submit_chipSel (s : State) (r : Request) : (s.submit r).chipSel = s.chipSel := rfl
@[simp] theorem State.submit_requests (s : State) (r : Request) : (s.submit r).requests = r :: s.requests := rfl
@[simp] theorem State.submit_result (s : State) (r : Request) : (s.submit r).result = s.result := rfl
@[simp] theorem State.submit_answers (s : State) (r : Request) : (s.submit r).answers = s.answers := rfl
@[simp] theorem State.submit_draws (s : State) (r : Request) : (s.submit r).draws = s.draws := rfl
@[simp] theorem State.submit_reentries (s : State) (r : Request) : (s.submit r).reentries = s.reentries := rfl
@[simp] theorem State.submit_trace (s : State) (r : Request) : (s.submit r).trace = s.trace := rfl

/-! ### storeBuffer .ioctl -/

@[simp] theorem State.storeBuffer_ioctl_cfg (s : State) (bs : List Byte) :
    (s.storeBuffer .ioctl bs).cfg = s.cfg := rfl
@[simp] theorem State.storeBuffer_ioctl_lock (s : State) (bs : List Byte) :
    (s.storeBuffer .ioctl bs).lock = s.lock := rfl
@[simp] theorem State.storeBuffer_ioctl_win (s : State) (bs : List Byte) :
    (s.storeBuffer .ioctl bs).win = s.win := rfl
@[simp] theorem State.storeBuffer_ioctl_winValid (s : State) (bs : List Byte) :
    (s.storeBuffer .ioctl bs).winValid = s.winValid := rfl
@[simp] theorem State.storeBuffer_ioctl_seq (s : State) (bs : List Byte) :
    (s.storeBuffer .ioctl bs).seq = s.seq := rfl
@[simp] theorem State.storeBuffer_ioctl_creditMax (s : State) (bs : List Byte) :
    (s.storeBuffer .ioctl bs).creditMax = s.creditMax := rfl
@[simp] theorem State.storeBuffer_ioctl_ioctlId (s : State) (bs : List Byte) :
    (s.storeBuffer .ioctl bs).ioctlId = s.ioctlId := rfl
@[simp] theorem State.storeBuffer_ioctl_ioctlBuf (s : State) (bs : List Byte) :
    (s.storeBuffer .ioctl bs).ioctlBuf = Memory.write s.ioctlBuf 0 bs := rfl
@[simp] theorem State.storeBuffer_ioctl_iovarBuf (s : State) (bs : List Byte) :
    (s.storeBuffer .ioctl bs).iovarBuf = s.iovarBuf := rfl
@[simp] theorem State.storeBuffer_ioctl_rxBuf (s : State) (bs : List Byte) :
    (s.storeBuffer .ioctl bs).rxBuf = s.rxBuf := rfl
@[simp] theorem State.storeBuffer_ioctl_lastStatus (s : State) (bs : List Byte) :
    (s.storeBuffer .ioctl bs).lastStatus = s.lastStatus := rfl
@[simp] theorem State.storeBuffer_ioctl_cbSet (s : State) (bs : List Byte) :
    (s.storeBuffer .ioctl bs).cbSet = s.cbSet := rfl
@[simp] theorem State.storeBuffer_ioctl_flagUnderflow (s : State) (bs : List Byte) :
    (s.storeBuffer .ioctl bs).flagUnderflow = s.flagUnderflow := rfl
@[simp] theorem State.storeBuffer_ioctl_flagOverflow (s : State) (bs : List Byte) :
    (s.storeBuffer .ioctl bs).flagOverflow = s.flagOverflow := rfl
@[simp] theorem State.storeBuffer_ioctl_phase (s : State) (bs : List Byte) :
    (s.storeBuffer .ioctl bs).phase = s.phase := rfl
@[simp] theorem State.storeBuffer_ioctl_chipSel (s : State) (bs : List Byte) :
    (s.storeBuffer .ioctl bs).chipSel = s.chipSel := rfl
@[simp] theorem State.storeBuffer_ioctl_requests (s : State) (bs : List Byte) :
    (s.storeBuffer .ioctl bs).requests = s.requests := rfl
@[simp] theorem State.storeBuffer_ioctl_result (s : State) (bs : List Byte) :
    (s.storeBuffer .ioctl bs).result = s.result := rfl
@[simp] theorem State.storeBuffer_ioctl_answers (s : State) (bs : List Byte) :
    (s.storeBuffer .ioctl bs).answers = s.answers := rfl
@[simp] theorem State.storeBuffer_ioctl_draws (s : State) (bs : List Byte) :
    (s.storeBuffer .ioctl bs).draws = s.draws := rfl
@[simp] theorem State.storeBuffer_ioctl_reentries (s : State) (bs : List Byte) :
    (s.storeBuffer .ioctl bs).reentries = s.reentries := rfl
@[simp] theorem State.storeBuffer_ioctl_trace (s : State) (bs : List Byte) :
    (s.storeBuffer .ioctl bs).trace = s.trace := rfl

/-! ### storeBuffer .iovar -/

@[simp] theorem State.storeBuffer_iovar_cfg (s : State) (bs : List Byte) :
    (s.storeBuffer .iovar bs).cfg = s.cfg := rfl
@[simp] theorem State.storeBuffer_iovar_lock (s : State) (bs : List Byte) :
    (s.storeBuffer .iovar bs).lock = s.lock := rfl
@[simp] theorem State.storeBuffer_iovar_win (s : State) (bs : List Byte) :
    (s.storeBuffer .iovar bs).win = s.win := rfl
@[simp] theorem State.storeBuffer_iovar_winValid (s : State) (bs : List Byte) :
    (s.storeBuffer .iovar bs).winValid = s.winValid := rfl
@[simp] theorem State.storeBuffer_iovar_seq (s : State) (bs : List Byte) :
    (s.storeBuffer .iovar bs).seq = s.seq := rfl
@[simp] theorem State.storeBuffer_iovar_creditMax (s : State) (bs : List Byte) :
    (s.storeBuffer .iovar bs).creditMax = s.creditMax := rfl
@[simp] theorem State.storeBuffer_iovar_ioctlId (s : State) (bs : List Byte) :
    (s.storeBuffer .iovar bs).ioctlId = s.ioctlId := rfl
@[simp] theorem State.storeBuffer_iovar_ioctlBuf (s : State) (bs : List Byte) :
    (s.storeBuffer .iovar bs).ioctlBuf = s.ioctlBuf := rfl
@[simp] theorem State.storeBuffer_iovar_iovarBuf (s : State) (bs : List Byte) :
    (s.storeBuffer .iovar bs).iovarBuf = Memory.write s.iovarBuf 0 bs := rfl
@[simp] theorem State.storeBuffer_iovar_rxBuf (s : State) (bs : List Byte) :
    (s.storeBuffer .iovar bs).rxBuf = s.rxBuf := rfl
@[simp] theorem State.storeBuffer_iovar_lastStatus (s : State) (bs : List Byte) :
    (s.storeBuffer .iovar bs).lastStatus = s.lastStatus := rfl
@[simp] theorem State.storeBuffer_iovar_cbSet (s : State) (bs : List Byte) :
    (s.storeBuffer .iovar bs).cbSet = s.cbSet := rfl
@[simp] theorem State.storeBuffer_iovar_flagUnderflow (s : State) (bs : List Byte) :
    (s.storeBuffer .iovar bs).flagUnderflow = s.flagUnderflow := rfl
@[simp] theorem State.storeBuffer_iovar_flagOverflow (s : State) (bs : List Byte) :
    (s.storeBuffer .iovar bs).flagOverflow = s.flagOverflow := rfl
@[simp] theorem State.storeBuffer_iovar_phase (s : State) (bs : List Byte) :
    (s.storeBuffer .iovar bs).phase = s.phase := rfl
@[simp] theorem State.storeBuffer_iovar_chipSel (s : State) (bs : List Byte) :
    (s.storeBuffer .iovar bs).chipSel = s.chipSel := rfl
@[simp] theorem State.storeBuffer_iovar_requests (s : State) (bs : List Byte) :
    (s.storeBuffer .iovar bs).requests = s.requests := rfl
@[simp] theorem State.storeBuffer_iovar_result (s : State) (bs : List Byte) :
    (s.storeBuffer .iovar bs).result = s.result := rfl
@[simp] theorem State.storeBuffer_iovar_answers (s : State) (bs : List Byte) :
    (s.storeBuffer .iovar bs).answers = s.answers := rfl
@[simp] theorem State.storeBuffer_iovar_draws (s : State) (bs : List Byte) :
    (s.storeBuffer .iovar bs).draws = s.draws := rfl
@[simp] theorem State.storeBuffer_iovar_reentries (s : State) (bs : List Byte) :
    (s.storeBuffer .iovar bs).reentries = s.reentries := rfl
@[simp] theorem State.storeBuffer_iovar_trace (s : State) (bs : List Byte) :
    (s.storeBuffer .iovar bs).trace = s.trace := rfl

/-! ### storeBuffer .rx -/

@[simp] theorem State.storeBuffer_rx_cfg (s : State) (bs : List Byte) : (s.storeBuffer .rx bs).cfg = s.cfg := rfl
@[simp] theorem State.storeBuffer_rx_lock (s : State) (bs : List Byte) : (s.storeBuffer .rx bs).lock = s.lock := rfl
@[simp] theorem State.storeBuffer_rx_win (s : State) (bs : List Byte) : (s.storeBuffer .rx bs).win = s.win := rfl
@[simp] theorem State.storeBuffer_rx_winValid (s : State) (bs : List Byte) :
    (s.storeBuffer .rx bs).winValid = s.winValid := rfl
@[simp] theorem State.storeBuffer_rx_seq (s : State) (bs : List Byte) : (s.storeBuffer .rx bs).seq = s.seq := rfl
@[simp] theorem State.storeBuffer_rx_creditMax (s : State) (bs : List Byte) :
    (s.storeBuffer .rx bs).creditMax = s.creditMax := rfl
@[simp] theorem State.storeBuffer_rx_ioctlId (s : State) (bs : List Byte) :
    (s.storeBuffer .rx bs).ioctlId = s.ioctlId := rfl
@[simp] theorem State.storeBuffer_rx_ioctlBuf (s : State) (bs : List Byte) :
    (s.storeBuffer .rx bs).ioctlBuf = s.ioctlBuf := rfl
@[simp] theorem State.storeBuffer_rx_iovarBuf (s : State) (bs : List Byte) :
    (s.storeBuffer .rx bs).iovarBuf = s.iovarBuf := rfl
@[simp] theorem State.storeBuffer_rx_rxBuf (s : State) (bs : List Byte) :
    (s.storeBuffer .rx bs).rxBuf = Memory.write s.rxBuf 0 bs := rfl
@[simp] theorem State.storeBuffer_rx_lastStatus (s : State) (bs : List Byte) :
    (s.storeBuffer .rx bs).lastStatus = s.lastStatus := rfl
@[simp] theorem State.storeBuffer_rx_cbSet (s : State) (bs : List Byte) :
    (s.storeBuffer .rx bs).cbSet = s.cbSet := rfl
@[simp] theorem State.storeBuffer_rx_flagUnderflow (s : State) (bs : List Byte) :
    (s.storeBuffer .rx bs).flagUnderflow = s.flagUnderflow := rfl
@[simp] theorem State.storeBuffer_rx_flagOverflow (s : State) (bs : List Byte) :
    (s.storeBuffer .rx bs).flagOverflow = s.flagOverflow := rfl
@[simp] theorem State.storeBuffer_rx_phase (s : State) (bs : List Byte) :
    (s.storeBuffer .rx bs).phase = s.phase := rfl
@[simp] theorem State.storeBuffer_rx_chipSel (s : State) (bs : List Byte) :
    (s.storeBuffer .rx bs).chipSel = s.chipSel := rfl
@[simp] theorem State.storeBuffer_rx_requests (s : State) (bs : List Byte) :
    (s.storeBuffer .rx bs).requests = s.requests := rfl
@[simp] theorem State.storeBuffer_rx_result (s : State) (bs : List Byte) :
    (s.storeBuffer .rx bs).result = s.result := rfl
@[simp] theorem State.storeBuffer_rx_answers (s : State) (bs : List Byte) :
    (s.storeBuffer .rx bs).answers = s.answers := rfl
@[simp] theorem State.storeBuffer_rx_draws (s : State) (bs : List Byte) :
    (s.storeBuffer .rx bs).draws = s.draws := rfl
@[simp] theorem State.storeBuffer_rx_reentries (s : State) (bs : List Byte) :
    (s.storeBuffer .rx bs).reentries = s.reentries := rfl
@[simp] theorem State.storeBuffer_rx_trace (s : State) (bs : List Byte) :
    (s.storeBuffer .rx bs).trace = s.trace := rfl

/-! ### chipWrites -/

@[simp] theorem State.chipWrites_cfg (s : State) (cmd : Word) (tx : List Byte) :
    (s.chipWrites cmd tx).cfg = s.cfg := rfl
@[simp] theorem State.chipWrites_lock (s : State) (cmd : Word) (tx : List Byte) :
    (s.chipWrites cmd tx).lock = s.lock := rfl
@[simp] theorem State.chipWrites_win (s : State) (cmd : Word) (tx : List Byte) :
    (s.chipWrites cmd tx).win = s.win := rfl
@[simp] theorem State.chipWrites_winValid (s : State) (cmd : Word) (tx : List Byte) :
    (s.chipWrites cmd tx).winValid = s.winValid := rfl
@[simp] theorem State.chipWrites_seq (s : State) (cmd : Word) (tx : List Byte) :
    (s.chipWrites cmd tx).seq = s.seq := rfl
@[simp] theorem State.chipWrites_creditMax (s : State) (cmd : Word) (tx : List Byte) :
    (s.chipWrites cmd tx).creditMax = s.creditMax := rfl
@[simp] theorem State.chipWrites_ioctlId (s : State) (cmd : Word) (tx : List Byte) :
    (s.chipWrites cmd tx).ioctlId = s.ioctlId := rfl
@[simp] theorem State.chipWrites_ioctlBuf (s : State) (cmd : Word) (tx : List Byte) :
    (s.chipWrites cmd tx).ioctlBuf = s.ioctlBuf := rfl
@[simp] theorem State.chipWrites_iovarBuf (s : State) (cmd : Word) (tx : List Byte) :
    (s.chipWrites cmd tx).iovarBuf = s.iovarBuf := rfl
@[simp] theorem State.chipWrites_rxBuf (s : State) (cmd : Word) (tx : List Byte) :
    (s.chipWrites cmd tx).rxBuf = s.rxBuf := rfl
@[simp] theorem State.chipWrites_lastStatus (s : State) (cmd : Word) (tx : List Byte) :
    (s.chipWrites cmd tx).lastStatus = s.lastStatus := rfl
@[simp] theorem State.chipWrites_cbSet (s : State) (cmd : Word) (tx : List Byte) :
    (s.chipWrites cmd tx).cbSet = s.cbSet := rfl
@[simp] theorem State.chipWrites_flagUnderflow (s : State) (cmd : Word) (tx : List Byte) :
    (s.chipWrites cmd tx).flagUnderflow = s.flagUnderflow := rfl
@[simp] theorem State.chipWrites_flagOverflow (s : State) (cmd : Word) (tx : List Byte) :
    (s.chipWrites cmd tx).flagOverflow = s.flagOverflow := rfl
@[simp] theorem State.chipWrites_phase (s : State) (cmd : Word) (tx : List Byte) :
    (s.chipWrites cmd tx).phase = s.phase := rfl
@[simp] theorem State.chipWrites_requests (s : State) (cmd : Word) (tx : List Byte) :
    (s.chipWrites cmd tx).requests = s.requests := rfl
@[simp] theorem State.chipWrites_result (s : State) (cmd : Word) (tx : List Byte) :
    (s.chipWrites cmd tx).result = s.result := rfl
@[simp] theorem State.chipWrites_answers (s : State) (cmd : Word) (tx : List Byte) :
    (s.chipWrites cmd tx).answers = s.answers := rfl
@[simp] theorem State.chipWrites_draws (s : State) (cmd : Word) (tx : List Byte) :
    (s.chipWrites cmd tx).draws = s.draws := rfl
@[simp] theorem State.chipWrites_reentries (s : State) (cmd : Word) (tx : List Byte) :
    (s.chipWrites cmd tx).reentries = s.reentries := rfl
@[simp] theorem State.chipWrites_trace (s : State) (cmd : Word) (tx : List Byte) :
    (s.chipWrites cmd tx).trace = s.trace := rfl

/-! ### chipUnknown -/

@[simp] theorem State.chipUnknown_cfg (s : State) (cmd : Word) (tx : List Byte) :
    (s.chipUnknown cmd tx).cfg = s.cfg := rfl
@[simp] theorem State.chipUnknown_lock (s : State) (cmd : Word) (tx : List Byte) :
    (s.chipUnknown cmd tx).lock = s.lock := rfl
@[simp] theorem State.chipUnknown_win (s : State) (cmd : Word) (tx : List Byte) :
    (s.chipUnknown cmd tx).win = s.win := rfl
@[simp] theorem State.chipUnknown_winValid (s : State) (cmd : Word) (tx : List Byte) :
    (s.chipUnknown cmd tx).winValid = s.winValid := rfl
@[simp] theorem State.chipUnknown_seq (s : State) (cmd : Word) (tx : List Byte) :
    (s.chipUnknown cmd tx).seq = s.seq := rfl
@[simp] theorem State.chipUnknown_creditMax (s : State) (cmd : Word) (tx : List Byte) :
    (s.chipUnknown cmd tx).creditMax = s.creditMax := rfl
@[simp] theorem State.chipUnknown_ioctlId (s : State) (cmd : Word) (tx : List Byte) :
    (s.chipUnknown cmd tx).ioctlId = s.ioctlId := rfl
@[simp] theorem State.chipUnknown_ioctlBuf (s : State) (cmd : Word) (tx : List Byte) :
    (s.chipUnknown cmd tx).ioctlBuf = s.ioctlBuf := rfl
@[simp] theorem State.chipUnknown_iovarBuf (s : State) (cmd : Word) (tx : List Byte) :
    (s.chipUnknown cmd tx).iovarBuf = s.iovarBuf := rfl
@[simp] theorem State.chipUnknown_rxBuf (s : State) (cmd : Word) (tx : List Byte) :
    (s.chipUnknown cmd tx).rxBuf = s.rxBuf := rfl
@[simp] theorem State.chipUnknown_lastStatus (s : State) (cmd : Word) (tx : List Byte) :
    (s.chipUnknown cmd tx).lastStatus = s.lastStatus := rfl
@[simp] theorem State.chipUnknown_cbSet (s : State) (cmd : Word) (tx : List Byte) :
    (s.chipUnknown cmd tx).cbSet = s.cbSet := rfl
@[simp] theorem State.chipUnknown_flagUnderflow (s : State) (cmd : Word) (tx : List Byte) :
    (s.chipUnknown cmd tx).flagUnderflow = s.flagUnderflow := rfl
@[simp] theorem State.chipUnknown_flagOverflow (s : State) (cmd : Word) (tx : List Byte) :
    (s.chipUnknown cmd tx).flagOverflow = s.flagOverflow := rfl
@[simp] theorem State.chipUnknown_phase (s : State) (cmd : Word) (tx : List Byte) :
    (s.chipUnknown cmd tx).phase = s.phase := rfl
@[simp] theorem State.chipUnknown_requests (s : State) (cmd : Word) (tx : List Byte) :
    (s.chipUnknown cmd tx).requests = s.requests := rfl
@[simp] theorem State.chipUnknown_result (s : State) (cmd : Word) (tx : List Byte) :
    (s.chipUnknown cmd tx).result = s.result := rfl
@[simp] theorem State.chipUnknown_answers (s : State) (cmd : Word) (tx : List Byte) :
    (s.chipUnknown cmd tx).answers = s.answers := rfl
@[simp] theorem State.chipUnknown_draws (s : State) (cmd : Word) (tx : List Byte) :
    (s.chipUnknown cmd tx).draws = s.draws + 1 := rfl
@[simp] theorem State.chipUnknown_reentries (s : State) (cmd : Word) (tx : List Byte) :
    (s.chipUnknown cmd tx).reentries = s.reentries := rfl
@[simp] theorem State.chipUnknown_trace (s : State) (cmd : Word) (tx : List Byte) :
    (s.chipUnknown cmd tx).trace = s.trace := rfl

/-! ### nextAnswer -/

@[simp] theorem State.nextAnswer_cfg (s : State) :
    (s.nextAnswer.2).cfg = s.cfg := by
  unfold State.nextAnswer; split <;> rfl
@[simp] theorem State.nextAnswer_lock (s : State) :
    (s.nextAnswer.2).lock = s.lock := by
  unfold State.nextAnswer; split <;> rfl
@[simp] theorem State.nextAnswer_win (s : State) :
    (s.nextAnswer.2).win = s.win := by
  unfold State.nextAnswer; split <;> rfl
@[simp] theorem State.nextAnswer_winValid (s : State) :
    (s.nextAnswer.2).winValid = s.winValid := by
  unfold State.nextAnswer; split <;> rfl
@[simp] theorem State.nextAnswer_seq (s : State) :
    (s.nextAnswer.2).seq = s.seq := by
  unfold State.nextAnswer; split <;> rfl
@[simp] theorem State.nextAnswer_creditMax (s : State) :
    (s.nextAnswer.2).creditMax = s.creditMax := by
  unfold State.nextAnswer; split <;> rfl
@[simp] theorem State.nextAnswer_ioctlId (s : State) :
    (s.nextAnswer.2).ioctlId = s.ioctlId := by
  unfold State.nextAnswer; split <;> rfl
@[simp] theorem State.nextAnswer_ioctlBuf (s : State) :
    (s.nextAnswer.2).ioctlBuf = s.ioctlBuf := by
  unfold State.nextAnswer; split <;> rfl
@[simp] theorem State.nextAnswer_iovarBuf (s : State) :
    (s.nextAnswer.2).iovarBuf = s.iovarBuf := by
  unfold State.nextAnswer; split <;> rfl
@[simp] theorem State.nextAnswer_rxBuf (s : State) :
    (s.nextAnswer.2).rxBuf = s.rxBuf := by
  unfold State.nextAnswer; split <;> rfl
@[simp] theorem State.nextAnswer_lastStatus (s : State) :
    (s.nextAnswer.2).lastStatus = s.lastStatus := by
  unfold State.nextAnswer; split <;> rfl
@[simp] theorem State.nextAnswer_cbSet (s : State) :
    (s.nextAnswer.2).cbSet = s.cbSet := by
  unfold State.nextAnswer; split <;> rfl
@[simp] theorem State.nextAnswer_flagUnderflow (s : State) :
    (s.nextAnswer.2).flagUnderflow = s.flagUnderflow := by
  unfold State.nextAnswer; split <;> rfl
@[simp] theorem State.nextAnswer_flagOverflow (s : State) :
    (s.nextAnswer.2).flagOverflow = s.flagOverflow := by
  unfold State.nextAnswer; split <;> rfl
@[simp] theorem State.nextAnswer_phase (s : State) :
    (s.nextAnswer.2).phase = s.phase := by
  unfold State.nextAnswer; split <;> rfl
@[simp] theorem State.nextAnswer_chipSel (s : State) :
    (s.nextAnswer.2).chipSel = s.chipSel := by
  unfold State.nextAnswer; split <;> rfl
@[simp] theorem State.nextAnswer_requests (s : State) :
    (s.nextAnswer.2).requests = s.requests := by
  unfold State.nextAnswer; split <;> rfl
@[simp] theorem State.nextAnswer_result (s : State) :
    (s.nextAnswer.2).result = s.result := by
  unfold State.nextAnswer; split <;> rfl
@[simp] theorem State.nextAnswer_reentries (s : State) :
    (s.nextAnswer.2).reentries = s.reentries := by
  unfold State.nextAnswer; split <;> rfl
@[simp] theorem State.nextAnswer_trace (s : State) :
    (s.nextAnswer.2).trace = s.trace := by
  unfold State.nextAnswer; split <;> rfl

/-! ### finish: how an operation ends (R292, R305) -/

@[simp] theorem finish_ok (r : Result) (s : State) : finish (.ok r s) = s.release r := rfl

@[simp] theorem finish_raise (e : Err) (s : State) : finish (.error (.raise e) s) = s.release (.err e) := rfl

@[simp] theorem finish_stuck (s : State) : finish (.error .stuck s) = s := rfl

end Sys2Proof.Machine
end

