-- ==== Sys2Proof/Laws/Memory.lean ====
section
/-! SUPPORT. Laws/Memory.lean: what the buffers' operations do: read after write, and the canonical form (log 18). -/

namespace Sys2Proof.Machine

/-! ### Reading what was written -/

theorem Memory.read_append (m k : Memory) (x : Nat) :
    Memory.read (m ++ k) x = (Memory.read m x).or (Memory.read k x) := by
  simp only [Memory.read, List.find?_append, Option.map_or]

theorem Memory.read_filter (m : Memory) (p : Nat → Bool) (x : Nat) :
    Memory.read (m.filter fun c => p c.1) x = if p x then Memory.read m x else none := by
  induction m with
  | nil => simp [Memory.read]
  | cons c m ih =>
    simp only [Memory.read] at ih ⊢
    rw [List.filter_cons, List.find?_cons]
    by_cases hx : c.1 = x
    · subst hx
      cases hp : p c.1
      · simp only [Bool.false_eq_true, if_false, ih, hp]
      · simp
    · have hne : (c.1 == x) = false := by simpa using hx
      cases hp : p c.1
      · simp only [Bool.false_eq_true, if_false, ih, hne]
      · simp only [if_true, List.find?_cons, ih, hne]

theorem Memory.read_cellsFrom (bs : List Byte) (a x : Nat) :
    Memory.read (cellsFrom a bs) x = if a ≤ x then bs[x - a]? else none := by
  induction bs generalizing a with
  | nil => simp [cellsFrom, Memory.read]
  | cons b bs ih =>
    have ih := ih (a + 1)
    simp only [Memory.read] at ih
    simp only [cellsFrom, Memory.read, List.find?_cons]
    by_cases hx : a = x
    · subst hx; simp
    · have hne : (a == x) = false := by simpa using hx
      simp only [hne, ih]
      by_cases hle : a + 1 ≤ x
      · rw [if_pos hle, if_pos (by omega), show x - a = (x - (a + 1)) + 1 by omega]
        simp
      · rw [if_neg hle, if_neg (by omega)]

/-- What a byte of a buffer reads as after a write: the byte written there, or what it read as before. -/
theorem Memory.read_write (m : Memory) (a : Nat) (bs : List Byte) (x : Nat) :
    Memory.read (Memory.write m a bs) x =
      if a ≤ x ∧ x < a + bs.length then bs[x - a]? else Memory.read m x := by
  simp only [Memory.write, Memory.read_append]
  have h1 := Memory.read_filter m (fun y => decide (y < a)) x
  have h2 := Memory.read_filter m (fun y => decide (a + bs.length ≤ y)) x
  simp only [h1, h2, Memory.read_cellsFrom, decide_eq_true_eq]
  by_cases hl : x < a
  · simp [hl, show ¬ a ≤ x by omega, show ¬ a + bs.length ≤ x by omega]
  · by_cases hr : a + bs.length ≤ x
    · simp [hl, hr, show a ≤ x by omega, show ¬ x < a + bs.length by omega,
        List.getElem?_eq_none (show bs.length ≤ x - a by omega)]
    · have hlt : x - a < bs.length := by omega
      simp [hl, hr, show a ≤ x by omega, show x < a + bs.length by omega, List.getElem?_eq_getElem hlt]

theorem Memory.read_write_outside {m : Memory} {a x : Nat} {bs : List Byte}
    (h : x < a ∨ a + bs.length ≤ x) : Memory.read (Memory.write m a bs) x = Memory.read m x := by
  rw [Memory.read_write, if_neg (by omega)]

/-! ### The canonical form -/

theorem Memory.wf_iff_pairwise (m : Memory) : Memory.wf m = true ↔ m.Pairwise fun c d => c.1 < d.1 := by
  induction m with
  | nil => simp [Memory.wf]
  | cons c m ih => simp [Memory.wf, ih, List.all_eq_true]

theorem Memory.mem_cellsFrom {c : Host.Cell} {bs : List Byte} {a : Nat} (h : c ∈ cellsFrom a bs) :
    a ≤ c.1 ∧ c.1 < a + bs.length := by
  induction bs generalizing a with
  | nil => simp [cellsFrom] at h
  | cons b bs ih =>
    simp only [cellsFrom, List.mem_cons] at h
    rcases h with rfl | h
    · simp
    · have := ih h
      simp only [List.length_cons]
      omega

theorem Memory.wf_cellsFrom (bs : List Byte) (a : Nat) : Memory.wf (cellsFrom a bs) = true := by
  induction bs generalizing a with
  | nil => rfl
  | cons b bs ih =>
    simp only [cellsFrom, Memory.wf, ih, Bool.and_true, List.all_eq_true, decide_eq_true_eq]
    intro c hc
    have := Memory.mem_cellsFrom hc
    omega

/-- A write keeps the canonical form. -/
theorem Memory.wf_write {m : Memory} (h : Memory.wf m = true) (a : Nat) (bs : List Byte) :
    Memory.wf (Memory.write m a bs) = true := by
  rw [Memory.wf_iff_pairwise] at h ⊢
  simp only [Memory.write, List.pairwise_append, List.mem_append, List.mem_filter, decide_eq_true_eq]
  refine ⟨⟨h.filter _, (Memory.wf_iff_pairwise _).1 (Memory.wf_cellsFrom bs a), ?_⟩, h.filter _, ?_⟩
  · rintro c ⟨-, hc⟩ d hd
    have := Memory.mem_cellsFrom hd
    omega
  · rintro c (⟨-, hc⟩ | hc) d ⟨-, hd⟩
    · omega
    · have := Memory.mem_cellsFrom hc
      omega

/-- A write inside the buffer stays inside it. -/
theorem Memory.within_write {m : Memory} {a size : Nat} {bs : List Byte} (h : Memory.within m size = true)
    (hb : a + bs.length ≤ size) : Memory.within (Memory.write m a bs) size = true := by
  simp only [Memory.within, List.all_eq_true, decide_eq_true_eq] at h ⊢
  simp only [Memory.write, List.mem_append, List.mem_filter]
  rintro c ((⟨hc, -⟩ | hc) | ⟨hc, -⟩)
  · exact h c hc
  · have := Memory.mem_cellsFrom hc
    omega
  · exact h c hc

theorem State.reset_buffers_wf (b : Buffer) : Memory.wf (State.reset.buffer b) = true := by
  cases b <;> rfl

/-! ### Slices of the buffers -/

@[simp] theorem State.bufSlice_length (s : State) (b : Buffer) (a n : Nat) :
    (s.bufSlice b a n).length = n := by
  induction n generalizing a with
  | zero => rfl
  | succ n ih => simp [State.bufSlice, ih]

/-- A slice depends on its buffer alone. -/
theorem State.bufSlice_congr {s t : State} {b : Buffer} (h : s.buffer b = t.buffer b) (a n : Nat) :
    s.bufSlice b a n = t.bufSlice b a n := by
  induction n generalizing a with
  | zero => rfl
  | succ n ih => simp [State.bufSlice, State.bufByte, ih, h]

theorem State.bufSlice_getElem? (s : State) (b : Buffer) (a n k : Nat) :
    (s.bufSlice b a n)[k]? = if k < n then some (s.bufByte b (a + k)) else none := by
  induction n generalizing a k with
  | zero => simp [State.bufSlice]
  | succ n ih =>
    cases k with
    | zero => simp [State.bufSlice]
    | succ k =>
      simp only [State.bufSlice, List.getElem?_cons_succ, ih, Nat.add_lt_add_iff_right]
      rw [show a + 1 + k = a + (k + 1) by omega]

theorem State.storeBuffer_buffer (s : State) (b : Buffer) (bs : List Byte) :
    (s.storeBuffer b bs).buffer b = Memory.write (s.buffer b) 0 bs := by
  cases b <;> rfl

theorem State.storeBuffer_buffer_ne {s : State} {b c : Buffer} {bs : List Byte} (h : c ≠ b) :
    (s.storeBuffer b bs).buffer c = s.buffer c := by
  cases b <;> cases c <;> first | rfl | exact absurd rfl h

/-- What a slice of a buffer reads as after a store over it. -/
theorem State.bufSlice_of_write {s : State} {b : Buffer} {m : Memory} {bs : List Byte}
    (hb : s.buffer b = Memory.write m 0 bs) {a n : Nat} (h : a + n ≤ bs.length) :
    s.bufSlice b a n = slice bs a (a + n) := by
  apply List.ext_getElem?
  intro k
  rw [State.bufSlice_getElem?]
  simp only [slice, State.bufByte, hb, Memory.read_write]
  by_cases hk : k < n
  · have : a + k < bs.length := by omega
    rw [if_pos hk, if_pos (by omega)]
    simp [hk, List.getElem?_eq_getElem this]
  · simp [hk]

theorem State.bufSlice_storeBuffer (s : State) (b : Buffer) (bs : List Byte) :
    (s.storeBuffer b bs).bufSlice b 0 bs.length = bs := by
  rw [State.bufSlice_of_write (State.storeBuffer_buffer s b bs) (by omega)]
  simp [slice]

end Sys2Proof.Machine
end

