-- ==== Sys2Proof/Laws/Proc.lean ====
section
/-! SUPPORT. Laws/Proc.lean: how procedures run, and the rules for proving what holds where a procedure ends. -/

namespace Sys2Proof.Machine

variable {α β : Type}

/-! ### Running a procedure -/

@[simp] theorem pure_run (a : α) (s : State) : (pure a : Proc α) s = .ok a s := rfl

theorem bind_run (p : Proc α) (f : α → Proc β) (s : State) :
    (p >>= f) s = match p s with
      | .ok a t => f a t
      | .error e t => .error e t := by
  change EStateM.bind p f s = _
  unfold EStateM.bind
  cases p s <;> rfl

theorem bind_run_ok {p : Proc α} {f : α → Proc β} {s t : State} {a : α} (h : p s = .ok a t) :
    (p >>= f) s = f a t := by rw [bind_run, h]

theorem bind_run_error {p : Proc α} {f : α → Proc β} {s t : State} {e : Stop} (h : p s = .error e t) :
    (p >>= f) s = .error e t := by rw [bind_run, h]

@[simp] theorem readState_run (s : State) : readState s = .ok s s := rfl

@[simp] theorem readState_bind (f : State → Proc β) (s : State) : (readState >>= f) s = f s s := rfl

@[simp] theorem update_run (f : State → State) (s : State) : update f s = .ok () (f s) := rfl

@[simp] theorem update_bind (f : State → State) (g : Unit → Proc β) (s : State) :
    (update f >>= g) s = g () (f s) := rfl

@[simp] theorem pure_bind_run (a : α) (f : α → Proc β) (s : State) : ((pure a : Proc α) >>= f) s = f a s := rfl

@[simp] theorem raise_run (e : Err) (s : State) : (raise e : Proc α) s = .error (.raise e) s := rfl

@[simp] theorem raise_bind (e : Err) (f : α → Proc β) (s : State) :
    ((raise e : Proc α) >>= f) s = .error (.raise e) s := rfl

@[simp] theorem refuse_run (w : Argument) (s : State) :
    (refuse w : Proc α) s = .error (.raise (.invalidArgument w)) s := rfl

/-- A check that passes. -/
theorem guardArg_pass {ok : Bool} (h : ok = true) (w : Argument) (f : Unit → Proc β) (s : State) :
    (guardArg ok w >>= f) s = f () s := by subst h; rfl

/-- A check that fails ends the operation and changes nothing (R303). -/
theorem guardArg_fail {ok : Bool} (h : ok = false) (w : Argument) (f : Unit → Proc β) (s : State) :
    (guardArg ok w >>= f) s = .error (.raise (.invalidArgument w)) s := by subst h; rfl

theorem guardArg_run (ok : Bool) (w : Argument) (s : State) :
    guardArg ok w s = if ok then .ok () s else .error (.raise (.invalidArgument w)) s := by cases ok <;> rfl

theorem attempt_ok {p : Proc α} {s t : State} {a : α} (h : p s = .ok a t) : attempt p s = .ok (.ok a) t := by
  simp [attempt, h]

theorem attempt_raise {p : Proc α} {s t : State} {e : Err} (h : p s = .error (.raise e) t) :
    attempt p s = .ok (.error e) t := by simp [attempt, h]

theorem attempt_stuck {p : Proc α} {s t : State} (h : p s = .error .stuck t) :
    attempt p s = .error .stuck t := by simp [attempt, h]

@[simp] theorem log_run (k : LogKind) (s : State) : log k s = .ok () (s.emit (.log k)) := rfl

@[simp] theorem sleep_run (d : Nat) (s : State) : sleep d s = .ok () (s.emit (.sleep d)) := rfl

/-- A delivery from which the host submits no operation returns (R276). -/
theorem deliver_returns {s : State} (h : s.reentries = []) (e : PortEvent) : deliver e s = .ok () (s.emit e) := by
  simp [deliver, h]

theorem deliver_returns_cons {s : State} {rest : List Bool} (h : s.reentries = false :: rest) (e : PortEvent) :
    deliver e s = .ok () { s.emit e with reentries := rest } := by simp [deliver, h]

/-- A delivery from which the host submits an operation does not return (R291). -/
theorem deliver_stuck {s : State} {rest : List Bool} (h : s.reentries = true :: rest) (e : PortEvent) :
    deliver e s = .error .stuck { s.emit e with reentries := rest } := by simp [deliver, h]

/-! ### What holds where a procedure ends -/

/-- From `s`, `p` ends with a value and a state that satisfy `Q`, or stops in a state that satisfies `E`. -/
def Ends (p : Proc α) (s : State) (Q : α → State → Prop) (E : Stop → State → Prop) : Prop :=
  match p s with
  | .ok a t => Q a t
  | .error e t => E e t

theorem Ends.mono {p : Proc α} {s : State} {Q Q' : α → State → Prop} {E E' : Stop → State → Prop}
    (h : Ends p s Q E) (hQ : ∀ a t, Q a t → Q' a t) (hE : ∀ e t, E e t → E' e t) : Ends p s Q' E' := by
  unfold Ends at *
  split
  · next a t ht => rw [ht] at h; exact hQ _ _ h
  · next e t ht => rw [ht] at h; exact hE _ _ h

theorem Ends.bind {p : Proc α} {f : α → Proc β} {s : State} {Q : α → State → Prop} {R : β → State → Prop}
    {E : Stop → State → Prop} (hp : Ends p s Q E) (hf : ∀ a t, Q a t → Ends (f a) t R E) :
    Ends (p >>= f) s R E := by
  unfold Ends at hp ⊢
  rw [bind_run]
  cases h : p s with
  | ok a t => rw [h] at hp; exact hf a t hp
  | error e t => rw [h] at hp; exact hp

theorem ends_pure {a : α} {s : State} {Q : α → State → Prop} {E : Stop → State → Prop} (h : Q a s) :
    Ends (pure a) s Q E := h

theorem ends_readState {s : State} {Q : State → State → Prop} {E : Stop → State → Prop} (h : Q s s) :
    Ends readState s Q E := h

theorem ends_update {f : State → State} {s : State} {Q : Unit → State → Prop} {E : Stop → State → Prop}
    (h : Q () (f s)) : Ends (update f) s Q E := h

theorem ends_raise {e : Err} {s : State} {Q : α → State → Prop} {E : Stop → State → Prop}
    (h : E (.raise e) s) : Ends (raise e : Proc α) s Q E := h

theorem ends_guardArg {ok : Bool} {w : Argument} {s : State} {Q : Unit → State → Prop} {E : Stop → State → Prop}
    (hQ : ok = true → Q () s) (hE : E (.raise (.invalidArgument w)) s) : Ends (guardArg ok w) s Q E := by
  cases ok
  · exact hE
  · exact hQ rfl

theorem ends_readState_bind {f : State → Proc β} {s : State} {R : β → State → Prop} {E : Stop → State → Prop}
    (h : Ends (f s) s R E) : Ends (readState >>= f) s R E := h

theorem ends_update_bind {g : State → State} {f : Unit → Proc β} {s : State} {R : β → State → Prop}
    {E : Stop → State → Prop} (h : Ends (f ()) (g s) R E) : Ends (update g >>= f) s R E := h

theorem ends_guardArg_bind {ok : Bool} {w : Argument} {f : Unit → Proc β} {s : State} {R : β → State → Prop}
    {E : Stop → State → Prop} (hQ : ok = true → Ends (f ()) s R E) (hE : E (.raise (.invalidArgument w)) s) :
    Ends (guardArg ok w >>= f) s R E := by
  cases ok
  · exact hE
  · exact hQ rfl

theorem ends_attempt {p : Proc α} {s : State} {Q : Except Err α → State → Prop} {E : Stop → State → Prop}
    (h : Ends p s (fun a t => Q (.ok a) t)
      (fun e t => match e with | .raise e => Q (.error e) t | .stuck => E .stuck t)) :
    Ends (attempt p) s Q E := by
  unfold Ends attempt at *
  cases hp : p s with
  | ok a t => rw [hp] at h; exact h
  | error e t => rw [hp] at h; cases e <;> exact h

theorem ends_deliver {e : PortEvent} {s : State} {Q : Unit → State → Prop} {E : Stop → State → Prop}
    (hQ : ∀ rest, Q () { s.emit e with reentries := rest })
    (hE : ∀ rest, E .stuck { s.emit e with reentries := rest }) : Ends (deliver e) s Q E := by
  unfold Ends deliver
  split
  · next t ht =>
    split at ht
    · cases ht; exact hQ s.reentries
    · cases ht; exact hQ _
    · cases ht
  · next ht =>
    split at ht
    · cases ht
    · cases ht
    · cases ht; exact hE _

/-- What holds where an operation ends: nothing has happened while the lock was held; else its body has ended (R290). -/
theorem operation_ends {i : Instr} {body : Proc Result} {s t : State} (P : State → Prop)
    (h : operation i body s = .next t) (hlock : s.lock = true → P s)
    (hbody : s.lock = false → Ends body (s.acquire i) (fun r u => P (u.release r))
      (fun e u => match e with | .raise e => P (u.release (.err e)) | .stuck => P u)) : P t := by
  unfold operation at h
  injection h with h
  subst h
  cases hl : s.lock
  · have hb := hbody hl
    unfold Ends at hb
    simp only [Bool.false_eq_true, if_false]
    cases hp : body (s.acquire i) with
    | ok r u => rw [hp] at hb; exact hb
    | error e u => rw [hp] at hb; cases e <;> exact hb
  · exact hlock hl

/-- An operation while the lock is free. -/
theorem operation_free {i : Instr} {body : Proc Result} {s : State} (h : s.lock = false) :
    operation i body s = .next (finish (body (s.acquire i))) := by simp [operation, h]

/-- An operation while the lock is held waits (R291). -/
theorem operation_held {i : Instr} {body : Proc Result} {s : State} (h : s.lock = true) :
    operation i body s = .next s := by simp [operation, h]

end Sys2Proof.Machine
end

