-- ==== Sys2Proof/Laws/Ops.lean ====
section
/-! SUPPORT. Laws/Ops.lean: what the bus primitives can do: one lemma for each outcome of a transaction, and for what every
transaction leaves alone. -/

namespace Sys2Proof.Machine

/-! ### Command words -/

/-- The bits of an assembled command word (R101). -/
theorem mkcmd_bit (write autoinc : Bool) (fn : FnCode) (addr : BusAddr) (len : LenField) (i : Nat) :
    (mkcmd write autoinc fn addr len).getLsbD i =
      if i < 11 then len.getLsbD i
      else if i - 11 < 17 then addr.getLsbD (i - 11)
      else if i - 28 < 2 then fn.getLsbD (i - 28)
      else if i - 30 < 1 then (BitVec.ofBool autoinc).getLsbD (i - 30)
      else (BitVec.ofBool write).getLsbD (i - 31) := by
  unfold mkcmd
  rw [BitVec.getLsbD_append, BitVec.getLsbD_append, BitVec.getLsbD_append, BitVec.getLsbD_append]
  simp only [Nat.sub_sub]

/-- The fields of an assembled command word, read back (R101). -/
theorem decCmd_mkcmd (write autoinc : Bool) (fn : FnCode) (addr : BusAddr) (len : LenField) :
    decCmd (mkcmd write autoinc fn addr len) = ⟨write, autoinc, fn, addr, len⟩ := by
  simp only [decCmd, CommandWord.mk.injEq]
  refine ⟨by rw [mkcmd_bit]; simp, by rw [mkcmd_bit]; simp, ?_, ?_, ?_⟩ <;>
    (apply BitVec.eq_of_getLsbD_eq
     intro i hi
     rw [BitVec.getLsbD_extractLsb', mkcmd_bit]
     simp only [hi, decide_true, Bool.true_and])
  · rw [if_neg (by omega), if_neg (by omega), if_pos (by omega)]; congr 1; omega
  · rw [if_neg (by omega), if_pos (by omega)]; congr 1; omega
  · rw [if_pos (by omega)]; congr 1; omega

theorem writtenByte_read (autoinc : Bool) (fn : FnCode) (addr : BusAddr) (len : LenField) (tx : List Byte)
    (a : BusAddr) : writtenByte (mkcmd false autoinc fn addr len) tx a = none := by
  simp [writtenByte, decCmd_mkcmd]

theorem writtenByte_other {autoinc : Bool} {fn : FnCode} (h : fn ≠ fnBackplane) (addr : BusAddr) (len : LenField)
    (tx : List Byte) (a : BusAddr) : writtenByte (mkcmd true autoinc fn addr len) tx a = none := by
  simp [writtenByte, decCmd_mkcmd, h]

/-- A read changes no selector register of the chip. -/
theorem chipWrites_read (s : State) (autoinc : Bool) (fn : FnCode) (addr : BusAddr) (len : LenField)
    (tx : List Byte) : s.chipWrites (mkcmd false autoinc fn addr len) tx = s := by
  simp [State.chipWrites, writtenByte_read]

/-- A write to another function changes no selector register of the chip. -/
theorem chipWrites_other {autoinc : Bool} {fn : FnCode} (h : fn ≠ fnBackplane) (s : State) (addr : BusAddr)
    (len : LenField) (tx : List Byte) : s.chipWrites (mkcmd true autoinc fn addr len) tx = s := by
  simp [State.chipWrites, writtenByte_other h]

/-- A write of fewer than 2048 bytes changes the selector registers it covers. -/
theorem chipWrites_write (s : State) (fn : FnCode) (addr : BusAddr) (d : List Byte) (h : d.length < 2048) :
    (s.chipWrites (writeCommand fn addr d.length) (padWords d)).chipSel =
      selectorsAfter s.cfg fn addr d s.chipSel := by
  have hlen : (BitVec.ofNat 11 d.length).toNat = d.length := by simp; omega
  have key (reg : BusAddr) (old : Byte) :
      (writtenByte (writeCommand fn addr d.length) (padWords d) reg).getD old =
        if fn = fnBackplane ∧ addr.toNat ≤ reg.toNat ∧ reg.toNat < addr.toNat + d.length then
          byteAt d (reg.toNat - addr.toNat)
        else old := by
    simp only [writtenByte, writeCommand, decCmd_mkcmd, hlen, Bool.true_and]
    by_cases hc : fn = fnBackplane ∧ addr.toNat ≤ reg.toNat ∧ reg.toNat < addr.toNat + d.length
    · obtain ⟨h1, h2, h3⟩ := hc
      rw [if_pos (by simp [h1, h2, h3]), if_pos ⟨h1, h2, h3⟩, Option.getD_some]
      exact byteAt_append_left (by omega)
    · rw [if_neg hc, if_neg (by simpa [and_assoc] using hc), Option.getD_none]
  simp only [State.chipWrites, selectorsAfter, key]

/-! ### One transaction -/

/-- The state after a transaction seen as the event `e`, answered with the status word `st`, `rest` being the answers
left. -/
def State.answered (s : State) (e : PortEvent) (st : Word) (rest : List Answer) : State :=
  { s with
    lastStatus := st
    answers := rest
    phase := s.phase.tick
    trace := s.trace ++ [e] }

/-- A transaction that is answered (R150). -/
theorem txn_ok {cmd : Word} {tx : List Byte} {rxn : Nat} {s : State} {raw : List Byte} {rest : List Answer}
    (h : s.answers = .ok raw :: rest) :
    let back := fit (rxn + 4) raw
    let st := de32 s.cfg.wireOrder (back.drop rxn)
    txn cmd tx rxn s = .ok (back.take rxn, st)
      ((s.chipWrites cmd tx).answered (.xfer (ser32 s.cfg.wireOrder cmd ++ tx) (some back)) st rest) := by
  simp only [txn, bind_run, xfer, State.nextAnswer, h]
  rfl

/-- A transaction that fails (R150): the status word kept from before stays. -/
theorem txn_fail {cmd : Word} {tx : List Byte} {rxn : Nat} {s : State} {rest : List Answer}
    (h : s.answers = .fail :: rest) :
    txn cmd tx rxn s = .error (.raise (.busFailure cmd))
      { (s.chipUnknown cmd tx).emit (.xfer (ser32 s.cfg.wireOrder cmd ++ tx) none) with answers := rest } := by
  simp only [txn, bind_run, xfer, State.nextAnswer, h]
  rfl

/-- A transaction answered by data of the length asked for and a status word. -/
theorem txn_reply {cmd : Word} {tx back : List Byte} {rxn : Nat} {st : Word} {s : State} {rest : List Answer}
    (h : s.answers = reply s.cfg back st :: rest) (hl : back.length = rxn) :
    txn cmd tx rxn s = .ok (back, st)
      ((s.chipWrites cmd tx).answered
        (.xfer (ser32 s.cfg.wireOrder cmd ++ tx) (some (back ++ ser32 s.cfg.wireOrder st))) st rest) := by
  subst hl
  rw [txn_ok h, fit_eq (by simp)]
  simp [de32_ser32]

/-- Where a transaction ends: with data of the length asked for, or as a bus failure. -/
theorem txn_ends (cmd : Word) (tx : List Byte) (rxn : Nat) (s : State) :
    Ends (txn cmd tx rxn) s
      (fun r t => r.1.length = rxn ∧ ∃ back u, back.length = rxn + 4 ∧ u = s.nextAnswer.2.chipWrites cmd tx ∧
        t = { u.emit (.xfer (ser32 s.cfg.wireOrder cmd ++ tx) (some back)) with lastStatus := r.2 })
      (fun e t => e = .raise (.busFailure cmd) ∧
        t = (s.nextAnswer.2.chipUnknown cmd tx).emit (.xfer (ser32 s.cfg.wireOrder cmd ++ tx) none)) := by
  unfold Ends
  simp only [txn, bind_run, xfer]
  rcases hA : s.nextAnswer with ⟨a, u⟩
  cases a with
  | fail => exact ⟨rfl, rfl⟩
  | ok raw =>
    refine ⟨by simp, fit (rxn + 4) raw, _, by simp, rfl, rfl⟩

/-! ### MemRead and MemWrite -/

/-- A read answered by data and a status word that does not report it unavailable (R151). -/
theorem memRead_reply {fn : FnCode} {addr : BusAddr} {n : Nat} {back : List Byte} {st : Word} {s : State}
    {rest : List Answer} (h : s.answers = reply s.cfg back st :: rest) (hl : back.length = readLength fn n)
    (hs : (decStatus s.cfg st).dataNa = false) :
    memRead fn addr n s = .ok (readData fn n back) (s.answered (readEvent s.cfg fn addr n back st) st rest) := by
  simp only [memRead, readState_bind]
  rw [bind_run_ok (txn_reply (rxn := readPad fn + roundup4 n) h hl), chipWrites_read]
  simp only [hs, List.append_nil]
  rfl

/-- A read whose status word reports unavailable data (R151). -/
theorem memRead_unavailable {fn : FnCode} {addr : BusAddr} {n : Nat} {back : List Byte} {st : Word} {s : State}
    {rest : List Answer} (h : s.answers = reply s.cfg back st :: rest) (hl : back.length = readLength fn n)
    (hs : (decStatus s.cfg st).dataNa = true) :
    memRead fn addr n s = .error (.raise .dataUnavailable)
      (s.answered (readEvent s.cfg fn addr n back st) st rest) := by
  simp only [memRead, readState_bind]
  rw [bind_run_ok (txn_reply (rxn := readPad fn + roundup4 n) h hl), chipWrites_read]
  simp only [hs, List.append_nil, if_true]
  rfl

/-- A read that fails (R150). -/
theorem memRead_fail {fn : FnCode} {addr : BusAddr} {n : Nat} {s : State} {rest : List Answer}
    (h : s.answers = .fail :: rest) :
    memRead fn addr n s = .error (.raise (.busFailure (readCommand fn addr n)))
      { s.emit (.xfer (ser32 s.cfg.wireOrder (readCommand fn addr n)) none) with
        answers := rest
        draws := s.draws + 1 } := by
  simp only [memRead, readState_bind]
  rw [bind_run_error (txn_fail h)]
  simp [State.chipUnknown, writtenByte_read, readCommand, State.emit]

/-- A write that is answered (R152). -/
theorem memWrite_reply {fn : FnCode} {addr : BusAddr} {d : List Byte} {st : Word} {s : State}
    {rest : List Answer} (h : s.answers = reply s.cfg [] st :: rest) :
    memWrite fn addr d s = .ok ()
      ((s.chipWrites (writeCommand fn addr d.length) (padWords d)).answered (writeEvent s.cfg fn addr d st) st rest) := by
  simp only [memWrite]
  rw [bind_run_ok (txn_reply (rxn := 0) h rfl)]
  simp [writeEvent, writeCommand]

/-- A write that fails (R150). -/
theorem memWrite_fail {fn : FnCode} {addr : BusAddr} {d : List Byte} {s : State} {rest : List Answer}
    (h : s.answers = .fail :: rest) :
    memWrite fn addr d s = .error (.raise (.busFailure (writeCommand fn addr d.length)))
      { (s.chipUnknown (writeCommand fn addr d.length) (padWords d)).emit
          (.xfer (ser32 s.cfg.wireOrder (writeCommand fn addr d.length) ++ padWords d) none) with
        answers := rest } := by
  simp only [memWrite]
  rw [bind_run_error (txn_fail h)]
  rfl

/-- Where a read ends: it has made one transaction, and what it answers has the length asked for (R151). -/
theorem memRead_ends {fn : FnCode} {addr : BusAddr} {n : Nat} {s : State} {Q : List Byte → State → Prop}
    {E : Stop → State → Prop}
    (hQ : ∀ d back st, d.length = n → back.length = readLength fn n + 4 →
      Q d { s.nextAnswer.2.emit (.xfer (ser32 s.cfg.wireOrder (readCommand fn addr n)) (some back)) with
        lastStatus := st })
    (hD : ∀ back st, back.length = readLength fn n + 4 →
      E (.raise .dataUnavailable)
        { s.nextAnswer.2.emit (.xfer (ser32 s.cfg.wireOrder (readCommand fn addr n)) (some back)) with
          lastStatus := st })
    (hF : E (.raise (.busFailure (readCommand fn addr n)))
      { s.nextAnswer.2.emit (.xfer (ser32 s.cfg.wireOrder (readCommand fn addr n)) none) with
        draws := s.nextAnswer.2.draws + 1 }) :
    Ends (memRead fn addr n) s Q E := by
  unfold memRead
  refine ends_readState_bind ?_
  refine Ends.bind ((txn_ends _ _ _ _).mono (fun _ _ h => h) ?_) ?_
  · rintro e t ⟨rfl, rfl⟩
    simpa [State.chipUnknown, writtenByte_read, readCommand, State.emit] using hF
  · rintro ⟨rx, st⟩ t ⟨hr, back, u, hb, rfl, rfl⟩
    simp only [chipWrites_read, List.append_nil]
    have hrl : rx.length = readLength fn n := hr
    by_cases hd : (decStatus s.cfg st).dataNa = true
    · simp only [hd, if_true]
      exact Ends.bind (ends_raise (Q := fun _ _ => False) (hD back st hb)) (fun _ _ h => h.elim)
    · simp only [hd]
      refine hQ _ back st ?_ hb
      have := le_roundup4 n
      simp only [slice, List.length_take, List.length_drop, hrl, readLength]
      omega

/-- Where a write ends: it has made one transaction (R152). -/
theorem memWrite_ends {fn : FnCode} {addr : BusAddr} {d : List Byte} {s : State} {Q : Unit → State → Prop}
    {E : Stop → State → Prop}
    (hQ : ∀ back st, back.length = 4 →
      Q () { (s.nextAnswer.2.chipWrites (writeCommand fn addr d.length) (padWords d)).emit
        (.xfer (ser32 s.cfg.wireOrder (writeCommand fn addr d.length) ++ padWords d) (some back)) with
        lastStatus := st })
    (hF : E (.raise (.busFailure (writeCommand fn addr d.length)))
      ((s.nextAnswer.2.chipUnknown (writeCommand fn addr d.length) (padWords d)).emit
        (.xfer (ser32 s.cfg.wireOrder (writeCommand fn addr d.length) ++ padWords d) none))) :
    Ends (memWrite fn addr d) s Q E := by
  unfold memWrite
  refine Ends.bind ((txn_ends _ _ _ _).mono (fun _ _ h => h) ?_) ?_
  · rintro e t ⟨rfl, rfl⟩
    exact hF
  · rintro ⟨rx, st⟩ t ⟨-, back, u, hb, rfl, rfl⟩
    exact hQ back st hb

end Sys2Proof.Machine
end

