-- ==== Sys2Proof/Laws/Receive.lean ====
section
/-! SUPPORT. Laws/Receive.lean: what a bus poll, the parser and the dispatcher can do (spec/44_rx_dispatcher.md). -/

namespace Sys2Proof.Machine

/-! ### The bus poll -/

theorem tryRead_ok {fn : FnCode} {addr : BusAddr} {n : Nat} {d : List Byte} {s t : State}
    (h : memRead fn addr n s = .ok d t) : tryRead fn addr n s = .ok (some d) t := by
  simp only [tryRead]
  rw [bind_run_ok (attempt_ok h)]
  rfl

theorem tryRead_unavailable {fn : FnCode} {addr : BusAddr} {n : Nat} {s t : State}
    (h : memRead fn addr n s = .error (.raise .dataUnavailable) t) : tryRead fn addr n s = .ok none t := by
  simp only [tryRead]
  rw [bind_run_ok (attempt_raise h)]
  rfl

theorem tryRead_busFailure {fn : FnCode} {addr : BusAddr} {n : Nat} {c : Word} {s t : State}
    (h : memRead fn addr n s = .error (.raise (.busFailure c)) t) :
    tryRead fn addr n s = .error (.raise (.busFailure c)) t := by
  simp only [tryRead]
  rw [bind_run_ok (attempt_raise h)]
  rfl

/-- The interrupt-status read of a bus poll, answered (R261): the state in which the flags are noted, before step 2. -/
def State.irqRead (s : State) (back : List Byte) (st : Word) (rest : List Answer) : State :=
  { s.noteIrq (irqValue s.cfg back) with
    answers := rest
    lastStatus := st
    phase := Phase.tick^[(quietEvents s.cfg back st).length] s.phase
    trace := s.trace ++ quietEvents s.cfg back st }

/-- A bus poll whose interrupt-status read is answered: what is left to do (R261). -/
theorem busPoll_irq {s : State} {back : List Byte} {st : Word} {rest : List Answer}
    (h : s.answers = reply s.cfg back st :: rest) (hl : back.length = readLength fnBus s.cfg.intStatusWidth)
    (hs : (decStatus s.cfg st).dataNa = false) :
    busPoll s =
      if irqHas (irqValue s.cfg back) s.cfg.irqF2PacketAvailable then fetchPacket (s.irqRead back st rest)
      else .ok (.noPacket .nothing) (s.irqRead back st rest) := by
  simp only [busPoll, readState_bind]
  rw [bind_run_ok (tryRead_ok (memRead_reply (fn := fnBus) h hl hs))]
  simp only [update_bind]
  rw [show leValue (readData fnBus s.cfg.intStatusWidth back) = irqValue s.cfg back from rfl]
  cases hd : irqHas (irqValue s.cfg back) s.cfg.irqDataUnavailable
  · have hq : (s.answered (readEvent s.cfg fnBus s.cfg.intStatusAddr s.cfg.intStatusWidth back st) st rest).noteIrq
        (irqValue s.cfg back) = s.irqRead back st rest := by
      simp only [State.irqRead, quietEvents, irqLog, hd]
      rfl
    rw [hq]
    cases irqHas (irqValue s.cfg back) s.cfg.irqF2PacketAvailable <;> rfl
  · have hq : ((s.answered (readEvent s.cfg fnBus s.cfg.intStatusAddr s.cfg.intStatusWidth back st) st rest).noteIrq
        (irqValue s.cfg back)).emit (.log .dataUnavailable) = s.irqRead back st rest := by
      simp only [State.irqRead, quietEvents, irqLog, hd, State.emit, State.noteIrq, State.answered]
      simp
    simp only [if_true]
    rw [bind_run_ok (log_run _ _), hq]
    cases irqHas (irqValue s.cfg back) s.cfg.irqF2PacketAvailable <;> rfl

/-- A bus poll whose interrupt-status read is unavailable (R261). -/
theorem busPoll_unavailable {s : State} {back : List Byte} {st : Word} {rest : List Answer}
    (h : s.answers = reply s.cfg back st :: rest) (hl : back.length = readLength fnBus s.cfg.intStatusWidth)
    (hs : (decStatus s.cfg st).dataNa = true) :
    busPoll s = .ok (.noPacket .dataUnavailable)
      (s.answered (readEvent s.cfg fnBus s.cfg.intStatusAddr s.cfg.intStatusWidth back st) st rest) := by
  simp only [busPoll, readState_bind]
  rw [bind_run_ok (tryRead_unavailable (memRead_unavailable (fn := fnBus) h hl hs))]
  rfl

/-- Step 2 of a bus poll, up to the packet read (R262). -/
theorem fetchPacket_early {u : State} (h : (decStatus u.cfg u.lastStatus).f2Ready = false ∨
    (decStatus u.cfg u.lastStatus).pktAvail = false ∨ (decStatus u.cfg u.lastStatus).pktLen = 0 ∨
    receivable u.cfg (decStatus u.cfg u.lastStatus).pktLen = false) :
    fetchPacket u =
      if (decStatus u.cfg u.lastStatus).f2Ready = false then .ok (.noPacket .f2NotReady) u
      else if (decStatus u.cfg u.lastStatus).pktAvail = false ∨ (decStatus u.cfg u.lastStatus).pktLen = 0 then
        .ok (.noPacket .nothing) u
      else .error (.raise .bufferTooSmall) (u.emit (.log .bufferTooSmall)) := by
  simp only [fetchPacket, readState_bind]
  by_cases h1 : (decStatus u.cfg u.lastStatus).f2Ready = false
  · rw [if_pos h1, if_pos (by simp [h1])]; rfl
  rw [if_neg h1, if_neg (by simpa using h1)]
  by_cases h2 : (decStatus u.cfg u.lastStatus).pktAvail = false ∨ (decStatus u.cfg u.lastStatus).pktLen = 0
  · rw [if_pos h2, if_pos (by simpa using h2)]; rfl
  rw [if_neg h2, if_neg (by simpa using h2)]
  have h3 : receivable u.cfg (decStatus u.cfg u.lastStatus).pktLen = false := by tauto
  rw [if_pos]
  · rfl
  · simp only [receivable, Bool.and_eq_false_iff, decide_eq_false_iff_not, Nat.not_le] at h3
    simpa [rxTooLong] using h3

/-- Step 2 of a bus poll that reads a packet (R262). -/
theorem fetchPacket_reads {u : State} (h1 : (decStatus u.cfg u.lastStatus).f2Ready = true)
    (h2 : (decStatus u.cfg u.lastStatus).pktAvail = true) (h3 : (decStatus u.cfg u.lastStatus).pktLen ≠ 0)
    (h4 : receivable u.cfg (decStatus u.cfg u.lastStatus).pktLen = true) :
    fetchPacket u = (tryRead fnWlan u.cfg.wlanFifoAddr (decStatus u.cfg u.lastStatus).pktLen >>= fun d? =>
      match d? with
      | none => pure (.noPacket .dataUnavailable)
      | some d => update (·.storeBuffer .rx d) >>= fun _ => pure (.packet (decStatus u.cfg u.lastStatus).pktLen)) u := by
  simp only [receivable, Bool.and_eq_true, decide_eq_true_eq] at h4
  simp only [fetchPacket, readState_bind, h1, h2]
  rw [if_neg (by simp), if_neg (by simpa using h3)]
  refine (congrFun (if_neg (by simp [rxTooLong]; omega)) u).trans (congrFun (congrArg _ (funext fun d? => ?_)) u)
  cases d? <;> rfl

/-- The state in which a bus poll that finds a packet ends. -/
def State.pollDone (s : State) (p : Poll) (rest : List Answer) : State :=
  { s.afterPoll p with
    answers := rest
    phase := Phase.tick^[(p.events s.cfg).length] s.phase }

theorem announces_iff {cfg : Config} {back : List Byte} {st : Word} :
    announces cfg back st = true ↔ (decStatus cfg st).dataNa = false ∧
      irqHas (irqValue cfg back) cfg.irqF2PacketAvailable = true ∧ (decStatus cfg st).f2Ready = true ∧
      (decStatus cfg st).pktAvail = true ∧ (decStatus cfg st).pktLen ≠ 0 := by
  simp [announces, and_assoc]

theorem Poll.reads_iff {p : Poll} {cfg : Config} :
    p.reads cfg = true ↔ p.irqBack.length = readLength fnBus cfg.intStatusWidth ∧
      p.back.length = readLength fnWlan (p.len cfg) ∧ announces cfg p.irqBack p.irqStatus = true ∧
      receivable cfg (p.len cfg) = true := by
  simp [Poll.reads, and_assoc]

theorem Poll.finds_iff {p : Poll} {cfg : Config} :
    p.finds cfg = true ↔ p.reads cfg = true ∧ (decStatus cfg p.status).dataNa = false := by
  simp [Poll.finds]

/-- A bus poll that reads a packet: what is left to do is the packet read (R262). -/
theorem busPoll_reads {s : State} {p : Poll} {rest : List Answer} (h : s.answers = p.answers s.cfg ++ rest)
    (hf : p.reads s.cfg = true) :
    busPoll s = (tryRead fnWlan s.cfg.wlanFifoAddr (p.len s.cfg) >>= fun d? =>
      match d? with
      | none => pure (.noPacket .dataUnavailable)
      | some d => update (·.storeBuffer .rx d) >>= fun _ => pure (.packet (p.len s.cfg)))
      (s.irqRead p.irqBack p.irqStatus (reply s.cfg p.back p.status :: rest)) := by
  obtain ⟨h1, -, h3, h4⟩ := Poll.reads_iff.1 hf
  obtain ⟨a1, a2, a3, a4, a5⟩ := announces_iff.1 h3
  rw [busPoll_irq h h1 a1, if_pos a2]
  exact fetchPacket_reads (u := s.irqRead _ _ _) a3 a4 a5 h4

/-- A bus poll that finds a packet (R262): it is in `rx_buf`. -/
theorem busPoll_finds {s : State} {p : Poll} {rest : List Answer} (h : s.answers = p.answers s.cfg ++ rest)
    (hf : p.finds s.cfg = true) : busPoll s = .ok (.packet (p.len s.cfg)) (s.pollDone p rest) := by
  obtain ⟨hr, hs⟩ := Poll.finds_iff.1 hf
  rw [busPoll_reads h hr, bind_run_ok (tryRead_ok (memRead_reply
    (s := s.irqRead p.irqBack p.irqStatus (reply s.cfg p.back p.status :: rest)) (fn := fnWlan) rfl
    (Poll.reads_iff.1 hr).2.1 hs))]
  have hd : readData fnWlan (p.len s.cfg) p.back = p.packet s.cfg := by
    simp [readData, readPad, slice, Poll.packet, fnWlan, fnBackplane]
  rw [hd]
  simp [State.pollDone, State.afterPoll, State.irqRead, State.answered, State.storeBuffer, Poll.events, quietEvents,
    Function.iterate_succ_apply']

/-- A bus poll whose packet read is unavailable (R262). -/
theorem busPoll_lost {s : State} {p : Poll} {rest : List Answer} (h : s.answers = p.answers s.cfg ++ rest)
    (hf : p.reads s.cfg = true) (hs : (decStatus s.cfg p.status).dataNa = true) :
    busPoll s = .ok (.noPacket .dataUnavailable)
      { s.afterLost p with
        answers := rest
        phase := Phase.tick^[(p.events s.cfg).length] s.phase } := by
  rw [busPoll_reads h hf, bind_run_ok (tryRead_unavailable (memRead_unavailable
    (s := s.irqRead p.irqBack p.irqStatus (reply s.cfg p.back p.status :: rest)) (fn := fnWlan) rfl
    (Poll.reads_iff.1 hf).2.1 hs))]
  simp [State.afterLost, State.irqRead, State.answered, Poll.events, quietEvents, Function.iterate_succ_apply']

/-! ### Parsing one packet -/

/-- RXONE as its checks in order (R264, R315): too short, corrupt, [the credit], header length, size, channel. -/
theorem rxOne_eq (len : Nat) (s : State) {b : List Byte} (hb : s.bufSlice .rx 0 len = b) :
    rxOne len s =
      if len < sdpcmLen then .error (.raise .shortPacket) s
      else if sdpcmValid (headerOf b) = false then .error (.raise .corruptHeader) s
      else if (headerOf b).headerLength.toNat < sdpcmLen then
        .error (.raise .corruptHeader) { s with creditMax := (headerOf b).busCredit }
      else if (headerOf b).size.toNat < sdpcmLen ∨ len < (headerOf b).size.toNat then
        .error (.raise .shortPacket) { s with creditMax := (headerOf b).busCredit }
      else classify (headerOf b) b { s with creditMax := (headerOf b).busCredit } := by
  subst hb
  simp only [rxOne, readState_bind, headerOf]
  by_cases h1 : len < sdpcmLen
  · rw [if_pos h1, if_pos h1]; rfl
  rw [if_neg h1, if_neg h1]
  by_cases h2 : sdpcmValid (decSdpcm (s.bufSlice .rx 0 len)) = false
  · rw [if_pos (by simp [h2])]; exact (if_pos h2).symm
  rw [if_neg (by simpa using h2)]; refine Eq.trans ?_ (if_neg h2).symm
  simp only [update_bind]
  by_cases h3 : (decSdpcm (s.bufSlice .rx 0 len)).headerLength.toNat < sdpcmLen
  · rw [if_pos h3]; exact (if_pos h3).symm
  rw [if_neg h3]; refine Eq.trans ?_ (if_neg h3).symm
  by_cases h4 : (decSdpcm (s.bufSlice .rx 0 len)).size.toNat < sdpcmLen ∨
      len < (decSdpcm (s.bufSlice .rx 0 len)).size.toNat
  · rw [if_pos (by simpa using h4)]; exact (if_pos h4).symm
  · rw [if_neg (by simpa using h4)]; exact (if_neg h4).symm

/-- RXONE on a packet that passes every check before the channel. -/
theorem rxOne_framed {len : Nat} {s : State} {b : List Byte} (hb : s.bufSlice .rx 0 len = b) (hf : framed b = true) :
    rxOne len s = classify (headerOf b) b { s with creditMax := (headerOf b).busCredit } := by
  have hlen : b.length = len := by rw [← hb]; simp
  simp only [framed, Bool.and_eq_true, decide_eq_true_eq, beq_iff_eq, hlen] at hf
  obtain ⟨⟨⟨⟨h1, h2⟩, h3⟩, h4⟩, h5⟩ := hf
  have hv : sdpcmValid (headerOf b) = true := by simp [sdpcmValid, h2]
  rw [rxOne_eq len s hb, hv, if_neg (by unfold sdpcmLen; omega), if_neg (by simp),
    if_neg (by unfold sdpcmLen; omega), if_neg (by unfold sdpcmLen; omega)]

theorem sdpcmChannel_toNat (h : SdpcmHeader) : (sdpcmChannel h).toNat = h.chanFlags.toNat % 16 := by
  simp [sdpcmChannel]

theorem classify_control {h : SdpcmHeader} (hc : h.chanFlags.toNat % 16 = 0) (b : List Byte) :
    classify h b = parseControl h b := by
  unfold classify; rw [sdpcmChannel_toNat, hc]; rfl

theorem classify_event {h : SdpcmHeader} (hc : h.chanFlags.toNat % 16 = 1) (b : List Byte) :
    classify h b = parseEvent h b := by
  unfold classify; rw [sdpcmChannel_toNat, hc]; rfl

theorem classify_data {h : SdpcmHeader} (hc : h.chanFlags.toNat % 16 = 2) (b : List Byte) :
    classify h b = parseData h b := by
  unfold classify; rw [sdpcmChannel_toNat, hc]; rfl

theorem classify_unknown {h : SdpcmHeader} (hc : 3 ≤ h.chanFlags.toNat % 16) (b : List Byte) :
    classify h b = raise (.unknownChannel (h.chanFlags.toNat % 16)) := by
  unfold classify
  rw [sdpcmChannel_toNat]
  split <;> simp_all

/-- Parsing a control packet (R269). -/
theorem parseControl_run (b : List Byte) (s : State) :
    parseControl (headerOf b) b s =
      if frameSize b < subHeader b + 16 then .error (.raise .shortPacket) s
      else .ok (.control (subHeader b + 16) (frameSize b - (subHeader b + 16)) (cdcOf b)) s := by
  change (if frameSize b < subHeader b + 16 then raise .shortPacket
    else pure (.control (subHeader b + 16) (frameSize b - (subHeader b + 16)) (cdcOf b)) : Proc Packet) s = _
  split <;> rfl

/-- The payload slice of a data or event packet (R270). -/
theorem bdcPayload_run (b : List Byte) (s : State) :
    bdcPayload (headerOf b) b s =
      if frameSize b < subHeader b + 4 then .error (.raise .shortPacket) s
      else if frameSize b < bdcStart b then .error (.raise .malformedBdc) s
      else .ok (bdcStart b, frameSize b - bdcStart b) s := by
  have hs : (headerOf b).headerLength.toNat +
      bdcPayloadStart (decBdc (slice b (headerOf b).headerLength.toNat ((headerOf b).headerLength.toNat + bdcLen))) =
        bdcStart b := by
    simp only [bdcPayloadStart, bdcStart, subHeader, bdcLen]; omega
  unfold bdcPayload
  simp only [hs]
  change (if frameSize b < subHeader b + 4 then raise .shortPacket
    else if frameSize b < bdcStart b then raise .malformedBdc
    else pure (bdcStart b, frameSize b - bdcStart b) : Proc (Nat × Nat)) s = _
  split
  · rfl
  · split <;> rfl

theorem eventMarked_iff (cfg : Config) (p : List Byte) : eventMarked cfg p = true ↔ marked cfg p := by
  simp [eventMarked, marked, and_assoc]

/-- Where a packet's payload slice lies (R269, R270). -/
theorem slice_bdcPayload (b : List Byte) (h : bdcStart b ≤ frameSize b) :
    slice b (bdcStart b) (bdcStart b + (frameSize b - bdcStart b)) = bdcPayloadOf b := by
  rw [bdcPayloadOf, Nat.add_sub_cancel' h]

/-- RXONE on a control packet (R269). -/
theorem rxOne_control {len : Nat} {s : State} {b : List Byte} (hb : s.bufSlice .rx 0 len = b)
    (hc : controlPacket b = true) :
    rxOne len s = .ok (.control (subHeader b + 16) (frameSize b - (subHeader b + 16)) (cdcOf b))
      { s with creditMax := (headerOf b).busCredit } := by
  simp only [controlPacket, Bool.and_eq_true, beq_iff_eq, decide_eq_true_eq] at hc
  rw [rxOne_framed hb hc.1.1, classify_control hc.1.2, parseControl_run, if_neg (by omega)]

/-- RXONE on a data packet (R270). -/
theorem rxOne_data {len : Nat} {s : State} {b : List Byte} (hb : s.bufSlice .rx 0 len = b)
    (hd : bdcPacket 2 b = true) :
    rxOne len s = .ok (.data (bdcStart b) (frameSize b - bdcStart b))
      { s with creditMax := (headerOf b).busCredit } := by
  simp only [bdcPacket, Bool.and_eq_true, beq_iff_eq, decide_eq_true_eq] at hd
  rw [rxOne_framed hb hd.1.1.1, classify_data hd.1.1.2, parseData,
    bind_run_ok ((bdcPayload_run b _).trans (by rw [if_neg (by omega), if_neg (by omega)]))]
  rfl

/-- RXONE on an event packet, valid or not (R271, R272). -/
theorem rxOne_event {len : Nat} {s : State} {b : List Byte} (hb : s.bufSlice .rx 0 len = b)
    (he : bdcPacket 1 b = true) :
    rxOne len s = .ok
      (if marked s.cfg (bdcPayloadOf b) then .event (bdcStart b) (frameSize b - bdcStart b)
        else .dropped .eventInvalid)
      { s with creditMax := (headerOf b).busCredit } := by
  simp only [bdcPacket, Bool.and_eq_true, beq_iff_eq, decide_eq_true_eq] at he
  rw [rxOne_framed hb he.1.1.1, classify_event he.1.1.2, parseEvent,
    bind_run_ok ((bdcPayload_run b _).trans (by rw [if_neg (by omega), if_neg (by omega)]))]
  simp only [readState_bind, slice_bdcPayload b he.2]
  by_cases hm : marked s.cfg (bdcPayloadOf b)
  · rw [if_pos hm, if_pos ((eventMarked_iff _ _).2 hm)]; rfl
  · rw [if_neg hm, if_neg (fun hc => hm ((eventMarked_iff _ _).1 hc))]; rfl

/-! ### Dispatching -/

theorem pollAndDispatch_noPacket {s t : State} {why : Transient} (h : busPoll s = .ok (.noPacket why) t) :
    pollAndDispatch s = .ok (.noPacket why) t := by
  simp only [pollAndDispatch]
  rw [bind_run_ok (attempt_ok h)]
  rfl

theorem pollAndDispatch_error {s t : State} {e : Err} (h : busPoll s = .error (.raise e) t) :
    pollAndDispatch s = .ok (.err e) t := by
  simp only [pollAndDispatch]
  rw [bind_run_ok (attempt_raise h)]
  rfl

theorem pollAndDispatch_packet {s t u v : State} {len : Nat} {k : Packet} (h : busPoll s = .ok (.packet len) t)
    (hr : rxOne len t = .ok k u) (hk : route k u = .ok () v) : pollAndDispatch s = .ok (.packet k) v := by
  simp only [pollAndDispatch]
  rw [bind_run_ok (attempt_ok h)]
  simp only []
  rw [bind_run_ok (attempt_ok hr)]
  simp only []
  rw [bind_run_ok hk]
  rfl

theorem pollAndDispatch_stuck {s t u v : State} {len : Nat} {k : Packet} (h : busPoll s = .ok (.packet len) t)
    (hr : rxOne len t = .ok k u) (hk : route k u = .error .stuck v) : pollAndDispatch s = .error .stuck v := by
  simp only [pollAndDispatch]
  rw [bind_run_ok (attempt_ok h)]
  simp only []
  rw [bind_run_ok (attempt_ok hr)]
  simp only []
  rw [bind_run_error hk]

/-- What PollAndDispatch makes of the errors of the parser (R276). -/
theorem pollAndDispatch_rejected {s t u : State} {len : Nat} {e : Err} (h : busPoll s = .ok (.packet len) t)
    (hr : rxOne len t = .error (.raise e) u) :
    pollAndDispatch s =
      match e with
      | .corruptHeader => .ok (.packet (.dropped .corruptHeader)) (u.emit (.log .corruptHeader))
      | .malformedBdc => .ok (.packet (.dropped .malformedBdc)) (u.emit (.log .malformedBdc))
      | .unknownChannel c => .ok (.err (.unknownChannel c)) (u.emit (.log .unknownChannel))
      | .shortPacket => .ok (.err .shortPacket) (u.emit (.log .shortPacket))
      | e => .ok (.err e) u := by
  simp only [pollAndDispatch]
  rw [bind_run_ok (attempt_ok h)]
  simp only []
  rw [bind_run_ok (attempt_raise hr)]
  cases e <;> rfl

/-- The packet a bus poll has stored, as the parser reads it. -/
theorem pollDone_bufSlice {s : State} {p : Poll} (hf : p.finds s.cfg = true) (rest : List Answer) :
    (s.pollDone p rest).bufSlice .rx 0 (p.len s.cfg) = p.packet s.cfg := by
  have hlen : (p.packet s.cfg).length = p.len s.cfg := by
    have h2 := (Poll.reads_iff.1 (Poll.finds_iff.1 hf).1).2.1
    have := le_roundup4 (p.len s.cfg)
    simp only [Poll.packet, List.length_take, h2, readLength]
    omega
  rw [State.bufSlice_of_write (bs := p.packet s.cfg) rfl (by omega), Nat.zero_add, ← hlen]
  simp [slice]

end Sys2Proof.Machine
end

