-- ==== Sys2Proof/Laws/Dispatch.lean ====
section
/-! SUPPORT. Laws/Dispatch.lean: what one `PollAndDispatch` does with each answer of the chip (spec/44_rx_dispatcher.md R260
to R276), said once for the loops that poll. -/

namespace Sys2Proof.Machine

/-- The state `s` with the answers `rest` left and the sequencer at `ph`. -/
def State.at (s : State) (rest : List Answer) (ph : Phase) : State := { s with answers := rest, phase := ph }

@[simp] theorem State.at_cfg (s : State) (r : List Answer) (p : Phase) : (s.at r p).cfg = s.cfg := rfl
@[simp] theorem State.at_seq (s : State) (r : List Answer) (p : Phase) : (s.at r p).seq = s.seq := rfl
@[simp] theorem State.at_creditMax (s : State) (r : List Answer) (p : Phase) : (s.at r p).creditMax = s.creditMax := rfl
@[simp] theorem State.at_answers (s : State) (r : List Answer) (p : Phase) : (s.at r p).answers = r := rfl
@[simp] theorem State.at_at (s : State) (r r' : List Answer) (p p' : Phase) : (s.at r p).at r' p' = s.at r' p' := rfl

theorem State.at_self (s : State) : s.at s.answers s.phase = s := rfl

/-- Where the end of an operation forgets the sequencer. -/
theorem State.at_release (s : State) (rest : List Answer) (ph : Phase) (r : Result) :
    (s.at rest ph).release r = s.ends [] rest r := by simp [State.at, State.release, State.ends]

theorem State.irqRead_eq (s : State) (back : List Byte) (st : Word) (rest : List Answer) :
    s.irqRead back st rest =
      (s.afterQuiet back st).at rest (Phase.tick^[(quietEvents s.cfg back st).length] s.phase) := rfl

theorem State.pollDone_eq (s : State) (p : Poll) (rest : List Answer) :
    s.pollDone p rest = (s.afterPoll p).at rest (Phase.tick^[(p.events s.cfg).length] s.phase) := rfl

/-- A poll that brings a control packet (R276). -/
theorem pollAndDispatch_control {s : State} {p : Poll} {rest : List Answer} (h : s.answers = p.answers s.cfg ++ rest)
    (hf : p.finds s.cfg = true) (hc : controlPacket (p.packet s.cfg) = true) :
    let b := p.packet s.cfg
    pollAndDispatch s = .ok
      (.packet (.control (subHeader b + 16) (frameSize b - (subHeader b + 16)) (cdcOf b)))
      ((s.received p).at rest (Phase.tick^[(p.events s.cfg).length] s.phase)) := by
  intro b
  exact pollAndDispatch_packet (busPoll_finds h hf) (rxOne_control (pollDone_bufSlice hf rest) hc) rfl

/-! ### Whatever one poll is answered -/

/-- The outcome of a poll that no wait loop ends on: no bus failure, and no control packet (R204, R238). -/
def PollOutcome.absorbed (o : PollOutcome) : Prop :=
  (∀ c, o ≠ .err (.busFailure c)) ∧ ∀ off n cdc, o ≠ .packet (.control off n cdc)

/-- A packet RXONE rejects (R264 to R271). -/
theorem rxOne_rejected {len : Nat} {s : State} {b : List Byte} {k : LogKind} (hb : s.bufSlice .rx 0 len = b)
    (hr : rejection b = some k) :
    ∃ e, rxOne len s = .error (.raise e)
        (if credits b then { s with creditMax := (headerOf b).busCredit } else s) ∧
      (e = .shortPacket ∧ k = .shortPacket ∨ e = .corruptHeader ∧ k = .corruptHeader ∨
        e = .malformedBdc ∧ k = .malformedBdc ∨ (∃ c, e = .unknownChannel c) ∧ k = .unknownChannel) := by
  have hlen : b.length = len := by rw [← hb]; simp
  rw [rxOne_eq len s hb, show sdpcmLen = 12 from rfl, show (headerOf b).size.toNat = frameSize b from rfl]
  simp only [rejection, hlen] at hr
  split at hr
  · next h1 => exact ⟨.shortPacket, by rw [if_pos h1, if_neg (by simp [credits, hlen]; omega)], by simp_all⟩
  next h1 =>
  by_cases h2 : (headerOf b).size = ~~~(headerOf b).sizeCom
  swap
  · rw [if_pos (Or.inl h2)] at hr
    exact ⟨.corruptHeader, by rw [if_neg h1, if_pos (by simp [sdpcmValid, h2]), if_neg (by simp [credits, h2])],
      by simp_all⟩
  have hcr : credits b = true := by simp only [credits, hlen, h2]; simp; omega
  rw [if_neg h1, if_neg (by simp [sdpcmValid, h2]), if_pos hcr]
  by_cases h3 : (headerOf b).headerLength.toNat < 12
  · rw [if_pos (Or.inr h3)] at hr
    exact ⟨.corruptHeader, by rw [if_pos h3], by simp_all⟩
  rw [if_neg (by simp [h2, h3])] at hr
  rw [if_neg h3]
  split at hr
  · next h4 => exact ⟨.shortPacket, by rw [if_pos h4], by simp_all⟩
  next h4 =>
  rw [if_neg h4]
  split at hr
  · next h5 => exact ⟨_, by rw [classify_unknown h5]; rfl, by simp_all⟩
  next h5 =>
  by_cases h6 : frameSize b < subHeader b + (if (headerOf b).chanFlags.toNat % 16 = 0 then 16 else 4)
  · rw [if_pos h6] at hr
    refine ⟨.shortPacket, ?_, by simp_all⟩
    have hc : (headerOf b).chanFlags.toNat % 16 = 0 ∨ (headerOf b).chanFlags.toNat % 16 = 1 ∨
      (headerOf b).chanFlags.toNat % 16 = 2 := by omega
    rcases hc with hc | hc | hc
    · rw [classify_control hc, parseControl_run, if_pos (by rwa [if_pos hc] at h6)]
    · rw [classify_event hc, parseEvent,
        bind_run_error ((bdcPayload_run b _).trans (if_pos (by rwa [if_neg (by omega)] at h6)))]
    · rw [classify_data hc, parseData,
        bind_run_error ((bdcPayload_run b _).trans (if_pos (by rwa [if_neg (by omega)] at h6)))]
  rw [if_neg h6] at hr
  by_cases h7 : (headerOf b).chanFlags.toNat % 16 ≠ 0 ∧ frameSize b < bdcStart b
  · rw [if_pos h7] at hr
    refine ⟨.malformedBdc, ?_, by simp_all⟩
    rw [if_neg h7.1] at h6
    have hc : (headerOf b).chanFlags.toNat % 16 = 1 ∨ (headerOf b).chanFlags.toNat % 16 = 2 := by omega
    rcases hc with hc | hc
    · rw [classify_event hc, parseEvent, bind_run_error ((bdcPayload_run b _).trans ((if_neg h6).trans (if_pos h7.2)))]
    · rw [classify_data hc, parseData, bind_run_error ((bdcPayload_run b _).trans ((if_neg h6).trans (if_pos h7.2)))]
  · rw [if_neg h7] at hr; cases hr

/-- A packet RXONE does not reject is a control, an event or a data packet. -/
theorem rejection_none {b : List Byte} (h : rejection b = none) :
    credits b = true ∧ (controlPacket b = true ∨ bdcPacket 1 b = true ∨ bdcPacket 2 b = true) := by
  simp only [rejection] at h
  split at h
  · cases h
  next h1 =>
  split at h
  · cases h
  next h2 =>
  split at h
  · cases h
  next h3 =>
  split at h
  · cases h
  next h4 =>
  by_cases h5 : frameSize b < subHeader b + (if (headerOf b).chanFlags.toNat % 16 = 0 then 16 else 4)
  · rw [if_pos h5] at h; cases h
  rw [if_neg h5] at h
  by_cases h6 : (headerOf b).chanFlags.toNat % 16 ≠ 0 ∧ frameSize b < bdcStart b
  · rw [if_pos h6] at h; cases h
  rw [not_or, not_not] at h2
  have hf : framed b = true := by
    simp only [framed, Bool.and_eq_true, decide_eq_true_eq, beq_iff_eq]
    simp only [frameSize] at h3
    refine ⟨⟨⟨⟨?_, h2.1⟩, ?_⟩, ?_⟩, ?_⟩ <;> omega
  refine ⟨by simp only [credits, h2.1]; simp; omega, ?_⟩
  have hc : (headerOf b).chanFlags.toNat % 16 = 0 ∨ (headerOf b).chanFlags.toNat % 16 = 1 ∨
      (headerOf b).chanFlags.toNat % 16 = 2 := by omega
  simp only [controlPacket, bdcPacket, hf, Bool.true_and, Bool.and_eq_true, beq_iff_eq, decide_eq_true_eq]
  rcases hc with hc | hc | hc <;> simp only [hc] at h5 h6 ⊢ <;> simp at h5 h6 ⊢ <;> omega

theorem controlPacket_channel {b : List Byte} (h : controlPacket b = true) :
    (headerOf b).chanFlags.toNat % 16 = 0 := by
  simp only [controlPacket, Bool.and_eq_true, beq_iff_eq] at h; exact h.1.2

theorem bdcPacket_channel {chan : Nat} {b : List Byte} (h : bdcPacket chan b = true) :
    (headerOf b).chanFlags.toNat % 16 = chan := by
  simp only [bdcPacket, Bool.and_eq_true, beq_iff_eq] at h; exact h.1.1.2

/-- A data or event packet is not a control packet. -/
theorem bdcPacket_not_control {chan : Nat} {b : List Byte} (h : bdcPacket chan b = true) (hc : chan ≠ 0) :
    controlPacket b = false := by
  rw [← Bool.not_eq_true]
  exact fun h' => hc ((bdcPacket_channel h).symm.trans (controlPacket_channel h'))

theorem bdcPacket_other {chan chan' : Nat} {b : List Byte} (h : bdcPacket chan b = true) (hc : chan' ≠ chan) :
    bdcPacket chan' b = false := by
  rw [← Bool.not_eq_true]
  exact fun h' => hc ((bdcPacket_channel h').symm.trans (bdcPacket_channel h))

theorem controlPacket_not_bdc {chan : Nat} {b : List Byte} (h : controlPacket b = true) (hc : chan ≠ 0) :
    bdcPacket chan b = false := by
  rw [← Bool.not_eq_true]
  exact fun h' => hc ((bdcPacket_channel h').symm.trans (controlPacket_channel h))

/-- A packet RXONE rejects is none of the three. -/
theorem rejection_some {b : List Byte} {k : LogKind} (h : rejection b = some k) :
    controlPacket b = false ∧ bdcPacket 1 b = false ∧ bdcPacket 2 b = false := by
  have key : ∀ p : Bool, (p = true → framed b = true ∧ rejection b = none) → p = false := by
    intro p hp
    rw [← Bool.not_eq_true]
    exact fun hp' => by rw [(hp hp').2] at h; cases h
  have hf : framed b = true → (headerOf b).chanFlags.toNat % 16 < 3 →
      subHeader b + (if (headerOf b).chanFlags.toNat % 16 = 0 then 16 else 4) ≤ frameSize b →
      ((headerOf b).chanFlags.toNat % 16 = 0 ∨ bdcStart b ≤ frameSize b) → rejection b = none := by
    intro hf h3 h4 h5
    simp only [framed, Bool.and_eq_true, decide_eq_true_eq, beq_iff_eq] at hf
    obtain ⟨⟨⟨⟨f1, f2⟩, f3⟩, f4⟩, f5⟩ := hf
    simp only [rejection]
    rw [if_neg (by omega), if_neg (by rw [not_or, not_not]; exact ⟨f2, by omega⟩),
      if_neg (by simp only [frameSize]; omega), if_neg (by omega), if_neg (by omega), if_neg (by omega)]
  refine ⟨key _ fun hp => ?_, key _ fun hp => ?_, key _ fun hp => ?_⟩
  · have hc := controlPacket_channel hp
    simp only [controlPacket, Bool.and_eq_true, decide_eq_true_eq] at hp
    exact ⟨hp.1.1, hf hp.1.1 (by omega) (by rw [if_pos hc]; exact hp.2) (Or.inl hc)⟩
  all_goals
    have hc := bdcPacket_channel hp
    simp only [bdcPacket, Bool.and_eq_true, decide_eq_true_eq] at hp
    exact ⟨hp.1.1.1, hf hp.1.1.1 (by omega) (by rw [if_neg (by omega)]; exact hp.1.2) (Or.inr hp.2)⟩

/-- What a packet that is not rejected parses to (R268 to R272). -/
def parsedAs (cfg : Config) (b : List Byte) : Packet :=
  if controlPacket b then .control (subHeader b + 16) (frameSize b - (subHeader b + 16)) (cdcOf b)
  else if bdcPacket 2 b then .data (bdcStart b) (frameSize b - bdcStart b)
  else if marked cfg (bdcPayloadOf b) then .event (bdcStart b) (frameSize b - bdcStart b)
  else .dropped .eventInvalid

/-- A packet RXONE does not reject (R268 to R272). -/
theorem rxOne_parsed {len : Nat} {s : State} {b : List Byte} (hb : s.bufSlice .rx 0 len = b) (hr : rejection b = none) :
    rxOne len s = .ok (parsedAs s.cfg b) { s with creditMax := (headerOf b).busCredit } := by
  rcases (rejection_none hr).2 with h | h | h
  · rw [rxOne_control hb h, parsedAs, if_pos h]
  · have h0 := bdcPacket_not_control h (by decide)
    have h2 := bdcPacket_other h (show (2 : Nat) ≠ 1 by decide)
    rw [rxOne_event hb h]
    simp only [parsedAs, h0, h2, Bool.false_eq_true, if_false]
  · have h0 := bdcPacket_not_control h (by decide)
    rw [rxOne_data hb h]
    simp only [parsedAs, h0, h, Bool.false_eq_true, if_false, if_true]

/-- The payload of a data or event packet, as the dispatcher reads it from `rx_buf`. -/
theorem bdcPayload_bufSlice {s u : State} {p : Poll} {chan : Nat}
    (hu : u.rxBuf = Memory.write s.rxBuf 0 (p.packet s.cfg)) (hc : bdcPacket chan (p.packet s.cfg) = true) :
    u.bufSlice .rx (bdcStart (p.packet s.cfg)) (frameSize (p.packet s.cfg) - bdcStart (p.packet s.cfg)) =
      bdcPayloadOf (p.packet s.cfg) := by
  simp only [bdcPacket, framed, Bool.and_eq_true, beq_iff_eq, decide_eq_true_eq] at hc
  have h1 := hc.2
  have h2 : frameSize (p.packet s.cfg) ≤ (p.packet s.cfg).length := hc.1.1.1.2
  rw [State.bufSlice_of_write (b := .rx) (m := s.rxBuf) (bs := p.packet s.cfg) hu (by omega), bdcPayloadOf,
    Nat.add_sub_cancel' h1]

/-- Routing a packet that is not rejected is its delivery, if it has one (R276). -/
theorem route_eq {s u : State} {p : Poll} (hu : u.rxBuf = Memory.write s.rxBuf 0 (p.packet s.cfg))
    (hr : rejection (p.packet s.cfg) = none) :
    route (parsedAs u.cfg (p.packet s.cfg)) u =
      match delivery u.cfg u.cbSet (p.packet s.cfg) with
      | some e => deliver e u
      | none => .ok () u := by
  rcases (rejection_none hr).2 with h | h | h
  · have h1 := controlPacket_not_bdc h (show (1 : Nat) ≠ 0 by decide)
    have h2 := controlPacket_not_bdc h (show (2 : Nat) ≠ 0 by decide)
    simp only [parsedAs, delivery, h, h1, h2, route, readState_bind]
    simp
  · have h0 := bdcPacket_not_control h (by decide)
    have h2 := bdcPacket_other h (show (2 : Nat) ≠ 1 by decide)
    simp only [parsedAs, delivery, h, h0, h2, route, readState_bind]
    by_cases hm : marked u.cfg (bdcPayloadOf (p.packet s.cfg))
    · simp only [Bool.false_eq_true, if_false, false_and, true_and, if_pos hm, bdcPayload_bufSlice hu h]
    · simp only [hm, Bool.false_eq_true, if_false, false_and, true_and]; rfl
  · have h0 := bdcPacket_not_control h (by decide)
    have h1 := bdcPacket_other h (show (1 : Nat) ≠ 2 by decide)
    simp only [parsedAs, delivery, h, h0, h1, route, readState_bind]
    cases hcb : u.cbSet <;> simp [bdcPayload_bufSlice hu h]

/-- A poll answered at the interrupt-status read alone. -/
theorem pollAndDispatch_one {s : State} {back : List Byte} {st : Word} {rest : List Answer}
    (h : s.answers = reply s.cfg back st :: rest) (hf : (PollAnswers.one back st).fits s.cfg = true) :
    ∃ o ph, pollAndDispatch s = .ok o ((s.polledBy (.one back st)).at rest ph) ∧ o.absorbed := by
  simp only [PollAnswers.fits, Bool.and_eq_true, beq_iff_eq, Bool.not_eq_true', Bool.and_eq_false_iff] at hf
  obtain ⟨hl, hf⟩ := hf
  simp only [State.polledBy]
  cases hna : (decStatus s.cfg st).dataNa
  swap
  · exact ⟨.noPacket .dataUnavailable, s.phase.tick,
      (pollAndDispatch_noPacket (busPoll_unavailable h hl hna)).trans rfl, by simp [PollOutcome.absorbed]⟩
  have hirq := busPoll_irq h hl hna
  cases hbit : irqHas (irqValue s.cfg back) s.cfg.irqF2PacketAvailable
  · rw [hbit, if_neg (by simp)] at hirq
    exact ⟨.noPacket .nothing, _, by
      rw [pollAndDispatch_noPacket hirq, State.irqRead_eq]; simp [announces, hbit]; rfl, by simp [PollOutcome.absorbed]⟩
  rw [hbit, if_pos rfl] at hirq
  by_cases ha : announces s.cfg back st = true
  · obtain ⟨-, -, a1, a2, a3⟩ := announces_iff.1 ha
    have hr : receivable s.cfg (decStatus s.cfg st).pktLen = false := by simpa [ha] using hf
    rw [fetchPacket_early (u := s.irqRead back st rest) (.inr (.inr (.inr hr))),
      if_neg (by rw [Bool.not_eq_false]; exact a1),
      if_neg (by rw [not_or, Bool.not_eq_false]; exact ⟨a2, a3⟩)] at hirq
    exact ⟨.err .bufferTooSmall, _, by
      rw [pollAndDispatch_error hirq, State.irqRead_eq]; simp [ha]; rfl, by simp [PollOutcome.absorbed]⟩
  · have hna' : (decStatus s.cfg st).f2Ready = false ∨ (decStatus s.cfg st).pktAvail = false ∨
        (decStatus s.cfg st).pktLen = 0 := by
      by_contra hc
      simp only [not_or, Bool.not_eq_false] at hc
      exact ha (announces_iff.2 ⟨hna, hbit, hc⟩)
    rw [fetchPacket_early (u := s.irqRead back st rest) (by tauto)] at hirq
    by_cases h1 : (decStatus s.cfg st).f2Ready = false
    · rw [if_pos (by exact h1)] at hirq
      exact ⟨.noPacket .f2NotReady, _, by rw [pollAndDispatch_noPacket hirq, State.irqRead_eq]; simp [ha]; rfl, by simp [PollOutcome.absorbed]⟩
    · rw [if_neg (by exact h1), if_pos (by exact hna'.resolve_left h1)] at hirq
      exact ⟨.noPacket .nothing, _, by rw [pollAndDispatch_noPacket hirq, State.irqRead_eq]; simp [ha]; rfl, by simp [PollOutcome.absorbed]⟩

/-- A poll that finds a packet, up to its routing. -/
theorem pollAndDispatch_found {s : State} {p : Poll} {rest : List Answer} (h : s.answers = p.answers s.cfg ++ rest)
    (hf : p.finds s.cfg = true) (hr : rejection (p.packet s.cfg) = none) :
    pollAndDispatch s =
      match delivery s.cfg s.cbSet (p.packet s.cfg) with
      | some e => (deliver e >>= fun _ => pure (PollOutcome.packet (parsedAs s.cfg (p.packet s.cfg))))
          ((s.received p).at rest (Phase.tick^[(p.events s.cfg).length] s.phase))
      | none => .ok (.packet (parsedAs s.cfg (p.packet s.cfg)))
          ((s.received p).at rest (Phase.tick^[(p.events s.cfg).length] s.phase)) := by
  have h1 := busPoll_finds h hf
  have h2 := rxOne_parsed (s := s.pollDone p rest) (pollDone_bufSlice hf rest) hr
  have h3 : route (parsedAs s.cfg (p.packet s.cfg)) ((s.received p).at rest (Phase.tick^[(p.events s.cfg).length] s.phase)) =
      match delivery s.cfg s.cbSet (p.packet s.cfg) with
      | some e => deliver e ((s.received p).at rest (Phase.tick^[(p.events s.cfg).length] s.phase))
      | none => .ok () ((s.received p).at rest (Phase.tick^[(p.events s.cfg).length] s.phase)) :=
    route_eq (s := s) (u := (s.received p).at rest (Phase.tick^[(p.events s.cfg).length] s.phase)) rfl hr
  simp only [pollAndDispatch]
  rw [bind_run_ok (attempt_ok h1)]
  simp only []
  rw [bind_run_ok (attempt_ok h2)]
  simp only []
  change (route (parsedAs s.cfg (p.packet s.cfg)) >>= fun _ => pure (PollOutcome.packet (parsedAs s.cfg (p.packet s.cfg))))
    ((s.received p).at rest (Phase.tick^[(p.events s.cfg).length] s.phase)) = _
  rw [bind_run, h3]
  cases delivery s.cfg s.cbSet (p.packet s.cfg) with
  | none => rfl
  | some e =>
    simp only []
    rw [bind_run]

/-- A poll so answered, from whose deliveries the host submits nothing: the state it leads to, and whether its outcome is a
control packet (R261, R262, R276). -/
theorem pollAndDispatch_answers {s : State} {a : PollAnswers} {rest : List Answer}
    (h : s.answers = a.list s.cfg ++ rest) (hf : a.fits s.cfg = true) (hn : s.reenters a = false) :
    ∃ o ph, pollAndDispatch s = .ok o ((s.polledBy a).at rest ph) ∧
      ((a.packet? s.cfg).any controlPacket = false ∧ o.absorbed ∨
        ∃ p, a = .two p ∧ p.finds s.cfg = true ∧ controlPacket (p.packet s.cfg) = true ∧ s.polledBy a = s.received p) := by
  cases a with
  | one back st =>
    obtain ⟨o, ph, h1, h2⟩ := pollAndDispatch_one h hf
    exact ⟨o, ph, h1, .inl ⟨rfl, h2⟩⟩
  | two p =>
    change s.answers = p.answers s.cfg ++ rest at h
    change p.reads s.cfg = true at hf
    cases hs : (decStatus s.cfg p.status).dataNa
    swap
    · refine ⟨.noPacket .dataUnavailable, Phase.tick^[(p.events s.cfg).length] s.phase, ?_,
        .inl ⟨by simp [PollAnswers.packet?, hs], by simp [PollOutcome.absorbed]⟩⟩
      rw [pollAndDispatch_noPacket (busPoll_lost h hf hs)]
      simp only [State.polledBy, hs, if_true]
      rfl
    have hfi := Poll.finds_iff.2 ⟨hf, hs⟩
    have hpk : (PollAnswers.two p).packet? s.cfg = some (p.packet s.cfg) := by simp [PollAnswers.packet?, hs]
    have hpb : s.polledBy (.two p) = s.dispatched p := by simp [State.polledBy, hs]
    rw [hpb, hpk]
    cases hr : rejection (p.packet s.cfg) with
    | some k =>
      obtain ⟨e, he, hk⟩ := rxOne_rejected (s := s.pollDone p rest) (pollDone_bufSlice hfi rest) hr
      have hd : s.dispatched p = { (if credits (p.packet s.cfg) then s.received p else s.afterPoll p) with
          trace := (if credits (p.packet s.cfg) then s.received p else s.afterPoll p).trace ++ [.log k] } := by
        simp only [State.dispatched, hr]
      have hp := pollAndDispatch_rejected (busPoll_finds h hfi) he
      have hst : ((if credits (p.packet s.cfg) then
          { s.pollDone p rest with creditMax := (headerOf (p.packet s.cfg)).busCredit } else s.pollDone p rest)).emit (.log k) =
          (s.dispatched p).at rest (Phase.tick^[(p.events s.cfg).length] s.phase).tick := by
        rw [hd]; cases credits (p.packet s.cfg) <;> rfl
      have hc : (some (p.packet s.cfg)).any controlPacket = false := (rejection_some hr).1
      obtain ⟨rfl, rfl⟩ | ⟨rfl, rfl⟩ | ⟨rfl, rfl⟩ | ⟨⟨c, rfl⟩, rfl⟩ := hk
      all_goals
        simp only [hst] at hp
        exact ⟨_, _, hp, .inl ⟨hc, by simp [PollOutcome.absorbed]⟩⟩
    | none =>
      have hp := pollAndDispatch_found h hfi hr
      have hcr := (rejection_none hr).1
      cases hd : delivery s.cfg s.cbSet (p.packet s.cfg) with
      | none =>
        have hst : s.dispatched p = s.received p := by simp only [State.dispatched, hr, hd, hcr, if_true]
        simp only [hd] at hp
        refine ⟨_, _, by rw [hst]; exact hp, ?_⟩
        by_cases hc : controlPacket (p.packet s.cfg) = true
        · exact .inr ⟨p, rfl, hfi, hc, hst⟩
        · refine .inl ⟨by simpa using hc, by simp, fun off n cdc => ?_⟩
          rw [Bool.not_eq_true] at hc
          simp only [parsedAs, hc, Bool.false_eq_true, if_false]
          split
          · simp
          · split <;> simp
      | some e =>
        have hst : s.dispatched p =
            { s.received p with trace := (s.received p).trace ++ [e], reentries := s.reentries.tail } := by
          simp only [State.dispatched, hr, hd, hcr, if_true]
        have hre : s.reentries.head? ≠ some true := by
          simpa [State.reenters, hpk, hd] using hn
        have hc : controlPacket (p.packet s.cfg) = false := by
          rcases (rejection_none hr).2 with hc | hc | hc
          · simp [delivery, controlPacket_not_bdc hc (show (1 : Nat) ≠ 0 by decide),
              controlPacket_not_bdc hc (show (2 : Nat) ≠ 0 by decide)] at hd
          · exact bdcPacket_not_control hc (by decide)
          · exact bdcPacket_not_control hc (by decide)
        have hdel : deliver e ((s.received p).at rest (Phase.tick^[(p.events s.cfg).length] s.phase)) =
            .ok () ((s.dispatched p).at rest (Phase.tick^[(p.events s.cfg).length] s.phase).tick) := by
          rw [hst]
          have hr' : ((s.received p).at rest (Phase.tick^[(p.events s.cfg).length] s.phase)).reentries = s.reentries := rfl
          rcases hrs : s.reentries with _ | ⟨b, bs⟩
          · rw [hrs] at hr'
            rw [deliver_returns hr']
            simp only [State.emit, State.at, List.tail_nil, EStateM.Result.ok.injEq, true_and]
            rw [← hrs]; rfl
          · rw [hrs] at hr' hre
            cases b
            · rw [deliver_returns_cons hr']; rfl
            · simp at hre
        simp only [hd] at hp
        rw [bind_run_ok hdel] at hp
        refine ⟨_, _, hp, .inl ⟨by simpa using hc, by simp, fun off n cdc => ?_⟩⟩
        simp only [parsedAs, hc, Bool.false_eq_true, if_false]
        split
        · simp
        · split <;> simp

/-- A delivery from which the host submits an operation ends the poll, and everything, there (R291). -/
theorem pollAndDispatch_reentry {s : State} {p : Poll} {rest : List Answer} {e : PortEvent} {more : List Bool}
    (h : s.answers = p.answers s.cfg ++ rest) (hf : p.finds s.cfg = true)
    (hd : delivery s.cfg s.cbSet (p.packet s.cfg) = some e) (hr : s.reentries = true :: more) :
    pollAndDispatch s = .error .stuck
      { ((s.received p).at rest (Phase.tick^[(p.events s.cfg).length] s.phase)).emit e with reentries := more } := by
  have hn : rejection (p.packet s.cfg) = none := by
    cases hk : rejection (p.packet s.cfg) with
    | none => rfl
    | some k =>
      obtain ⟨-, h1, h2⟩ := rejection_some hk
      simp [delivery, h1, h2] at hd
  have hp := pollAndDispatch_found h hf hn
  simp only [hd] at hp
  rw [hp, bind_run_error (deliver_stuck (s := (s.received p).at rest _) hr e)]

end Sys2Proof.Machine
end

