-- ==== Sys2Proof/Laws/Framer.lean ====
section
/-! SUPPORT. Laws/Framer.lean: what the credit wait and the two senders can do (spec/42_sdpcm_framer.md). -/

namespace Sys2Proof.Machine

/-- The credit wait with credit does nothing (R204). -/
theorem waitCredit_credit {s : State} (h : hasCredit s.seq s.creditMax = true) : waitCredit s = .ok () s := by
  simp only [waitCredit, readState_bind]
  cases s.cfg.creditRetries <;> simp [waitCreditFor, h]

/-! ### Rounds of the waits -/

@[simp] theorem State.polledBy_cfg (s : State) (a : PollAnswers) : (s.polledBy a).cfg = s.cfg := by
  cases a with
  | one back st => simp only [State.polledBy]; split <;> [rfl; (split <;> rfl)]
  | two p =>
    simp only [State.polledBy, State.dispatched]
    split
    · rfl
    · cases rejection (p.packet s.cfg) <;> cases delivery s.cfg s.cbSet (p.packet s.cfg) <;>
        cases credits (p.packet s.cfg) <;> rfl

@[simp] theorem State.polledBy_ioctlId (s : State) (a : PollAnswers) : (s.polledBy a).ioctlId = s.ioctlId := by
  cases a with
  | one back st => simp only [State.polledBy]; split <;> [rfl; (split <;> rfl)]
  | two p =>
    simp only [State.polledBy, State.dispatched]
    split
    · rfl
    · cases rejection (p.packet s.cfg) <;> cases delivery s.cfg s.cbSet (p.packet s.cfg) <;>
        cases credits (p.packet s.cfg) <;> rfl

@[simp] theorem State.polledBy_at (s : State) (a : PollAnswers) (r : List Answer) (ph : Phase) :
    (s.at r ph).polledBy a = (s.polledBy a).at r ph := by
  cases a with
  | one back st =>
    cases h1 : (decStatus s.cfg st).dataNa <;> cases h2 : announces s.cfg back st <;>
      simp only [State.polledBy, State.at_cfg, h1, h2, if_true, Bool.false_eq_true, if_false] <;> rfl
  | two p =>
    cases h1 : (decStatus s.cfg p.status).dataNa <;> cases h2 : rejection (p.packet s.cfg) <;>
      cases h3 : delivery s.cfg s.cbSet (p.packet s.cfg) <;> cases h4 : credits (p.packet s.cfg) <;>
      simp only [State.polledBy, State.dispatched, State.at_cfg, show (s.at r ph).cbSet = s.cbSet from rfl, h1, h2, h3, h4,
        if_true, Bool.false_eq_true, if_false] <;> rfl

@[simp] theorem State.creditRound_cfg (s : State) (a : PollAnswers) : (s.creditRound a).cfg = s.cfg :=
  s.polledBy_cfg a

@[simp] theorem State.ioctlRound_cfg (s : State) (a : PollAnswers) : (s.ioctlRound a).cfg = s.cfg := s.polledBy_cfg a

@[simp] theorem State.ioctlRound_ioctlId (s : State) (a : PollAnswers) : (s.ioctlRound a).ioctlId = s.ioctlId :=
  s.polledBy_ioctlId a

theorem State.creditRound_at (s : State) (a : PollAnswers) (r : List Answer) (ph : Phase) :
    (s.at r ph).creditRound a = (s.creditRound a).at r ph := by simp only [State.creditRound, State.polledBy_at]; rfl

theorem State.ioctlRound_at (s : State) (a : PollAnswers) (r : List Answer) (ph : Phase) :
    (s.at r ph).ioctlRound a = (s.ioctlRound a).at r ph := by simp only [State.ioctlRound, State.polledBy_at]; rfl

theorem State.foldl_creditRound_at (as : List PollAnswers) (s : State) (r : List Answer) (ph : Phase) :
    as.foldl State.creditRound (s.at r ph) = (as.foldl State.creditRound s).at r ph := by
  induction as generalizing s with
  | nil => rfl
  | cons a as ih => rw [List.foldl_cons, List.foldl_cons, State.creditRound_at, ih]

theorem State.foldl_ioctlRound_at (as : List PollAnswers) (s : State) (r : List Answer) (ph : Phase) :
    as.foldl State.ioctlRound (s.at r ph) = (as.foldl State.ioctlRound s).at r ph := by
  induction as generalizing s with
  | nil => rfl
  | cons a as ih => rw [List.foldl_cons, List.foldl_cons, State.ioctlRound_at, ih]

theorem State.polledBy_acquire (s : State) (a : PollAnswers) (i : Instr) :
    (s.acquire i).polledBy a = (s.polledBy a).acquire i := by
  cases a with
  | one back st =>
    cases h1 : (decStatus s.cfg st).dataNa <;> cases h2 : announces s.cfg back st <;>
      simp only [State.polledBy, show (s.acquire i).cfg = s.cfg from rfl, h1, h2, if_true, Bool.false_eq_true, if_false] <;>
      rfl
  | two p =>
    cases h1 : (decStatus s.cfg p.status).dataNa <;> cases h2 : rejection (p.packet s.cfg) <;>
      cases h3 : delivery s.cfg s.cbSet (p.packet s.cfg) <;> cases h4 : credits (p.packet s.cfg) <;>
      simp only [State.polledBy, State.dispatched, show (s.acquire i).cfg = s.cfg from rfl,
        show (s.acquire i).cbSet = s.cbSet from rfl, h1, h2, h3, h4, if_true, Bool.false_eq_true, if_false] <;> rfl

theorem State.creditRound_acquire (s : State) (a : PollAnswers) (i : Instr) :
    (s.acquire i).creditRound a = (s.creditRound a).acquire i := by
  simp only [State.creditRound, State.polledBy_acquire]; rfl

theorem State.ioctlRound_acquire (s : State) (a : PollAnswers) (i : Instr) :
    (s.acquire i).ioctlRound a = (s.ioctlRound a).acquire i := by
  simp only [State.ioctlRound, State.polledBy_acquire]; rfl

/-- The rounds of a wait see nothing of the lock, the phase and the command port. -/
theorem State.foldl_creditRound_acquire (as : List PollAnswers) (s : State) (i : Instr) :
    as.foldl State.creditRound (s.acquire i) = (as.foldl State.creditRound s).acquire i := by
  induction as generalizing s with
  | nil => rfl
  | cons a as ih => rw [List.foldl_cons, List.foldl_cons, State.creditRound_acquire, ih]

@[inherit_doc State.foldl_creditRound_acquire]
theorem State.foldl_ioctlRound_acquire (as : List PollAnswers) (s : State) (i : Instr) :
    as.foldl State.ioctlRound (s.acquire i) = (as.foldl State.ioctlRound s).acquire i := by
  induction as generalizing s with
  | nil => rfl
  | cons a as ih => rw [List.foldl_cons, List.foldl_cons, State.ioctlRound_acquire, ih]

theorem State.creditRounds_acquire (as : List PollAnswers) (s : State) (i : Instr) :
    (s.acquire i).creditRounds as = s.creditRounds as := by
  induction as generalizing s with
  | nil => rfl
  | cons a as ih => simp only [State.creditRounds, State.creditRound_acquire, ih]; rfl

theorem State.ioctlRounds_acquire (as : List PollAnswers) (s : State) (i : Instr) :
    (s.acquire i).ioctlRounds as = s.ioctlRounds as := by
  induction as generalizing s with
  | nil => rfl
  | cons a as ih => simp only [State.ioctlRounds, State.ioctlRound_acquire, ih]; rfl

/-- Rounds of the credit wait consume no sequence number. -/
@[simp] theorem State.polledBy_seq (s : State) (a : PollAnswers) : (s.polledBy a).seq = s.seq := by
  cases a with
  | one back st => simp only [State.polledBy]; split <;> [rfl; (split <;> rfl)]
  | two p =>
    simp only [State.polledBy, State.dispatched]
    split
    · rfl
    · cases rejection (p.packet s.cfg) <;> cases delivery s.cfg s.cbSet (p.packet s.cfg) <;>
        cases credits (p.packet s.cfg) <;> rfl

@[inherit_doc State.polledBy_seq]
theorem State.foldl_creditRound_seq (as : List PollAnswers) (s : State) :
    (as.foldl State.creditRound s).seq = s.seq := by
  induction as generalizing s with
  | nil => rfl
  | cons a as ih => rw [List.foldl_cons, ih]; exact s.polledBy_seq a

theorem State.foldl_creditRound_ioctlId (as : List PollAnswers) (s : State) :
    (as.foldl State.creditRound s).ioctlId = s.ioctlId := by
  induction as generalizing s with
  | nil => rfl
  | cons a as ih => rw [List.foldl_cons, ih]; exact s.polledBy_ioctlId a

theorem State.foldl_ioctlRound_seq (as : List PollAnswers) (s : State) :
    (as.foldl State.ioctlRound s).seq = s.seq := by
  induction as generalizing s with
  | nil => rfl
  | cons a as ih => rw [List.foldl_cons, ih]; exact s.polledBy_seq a

theorem State.creditRounds_at (as : List PollAnswers) (s : State) (r : List Answer) (ph : Phase) :
    (s.at r ph).creditRounds as = s.creditRounds as := by
  induction as generalizing s with
  | nil => rfl
  | cons a as ih => simp only [State.creditRounds, State.creditRound_at, ih]; rfl

theorem State.ioctlRounds_at (as : List PollAnswers) (s : State) (r : List Answer) (ph : Phase) :
    (s.at r ph).ioctlRounds as = s.ioctlRounds as := by
  induction as generalizing s with
  | nil => rfl
  | cons a as ih => simp only [State.ioctlRounds, State.ioctlRound_at, ih]; rfl

@[simp] theorem State.foldl_creditRound_cfg (as : List PollAnswers) (s : State) :
    (as.foldl State.creditRound s).cfg = s.cfg := by
  induction as generalizing s with
  | nil => rfl
  | cons a as ih => rw [List.foldl_cons, ih, State.creditRound_cfg]

@[simp] theorem State.foldl_ioctlRound_cfg (as : List PollAnswers) (s : State) :
    (as.foldl State.ioctlRound s).cfg = s.cfg := by
  induction as generalizing s with
  | nil => rfl
  | cons a as ih => rw [List.foldl_cons, ih, State.ioctlRound_cfg]

@[simp] theorem State.foldl_ioctlRound_ioctlId (as : List PollAnswers) (s : State) :
    (as.foldl State.ioctlRound s).ioctlId = s.ioctlId := by
  induction as generalizing s with
  | nil => rfl
  | cons a as ih => rw [List.foldl_cons, ih, State.ioctlRound_ioctlId]

theorem answersOf_cons (cfg : Config) (a : PollAnswers) (as : List PollAnswers) (rest : List Answer) :
    answersOf cfg (a :: as) ++ rest = a.list cfg ++ (answersOf cfg as ++ rest) := by simp [answersOf]

/-- The credit wait makes its rounds and goes on from there (R204). -/
theorem waitCreditFor_rounds (as : List PollAnswers) (n : Nat) (s : State) (rest : List Answer)
    (hr : s.creditRounds as = true) (h : s.answers = answersOf s.cfg as ++ rest) :
    ∃ ph, waitCreditFor (as.length + n) s = waitCreditFor n ((as.foldl State.creditRound s).at rest ph) := by
  induction as generalizing s with
  | nil => exact ⟨s.phase, by rw [← show s.answers = rest from h, List.foldl_nil, State.at_self, List.length_nil, Nat.zero_add]⟩
  | cons a as ih =>
    rw [answersOf_cons] at h
    simp only [State.creditRounds, Bool.and_eq_true, Bool.not_eq_true'] at hr
    obtain ⟨⟨⟨hc, hf⟩, hn⟩, hrs⟩ := hr
    obtain ⟨o, ph, hp, ho⟩ := pollAndDispatch_answers h hf hn
    have hb : ∀ c, o ≠ .err (.busFailure c) := by
      rcases ho with ho | ⟨p, rfl, hfi, hcp, -⟩
      · exact ho.2.1
      · rw [pollAndDispatch_control h hfi hcp] at hp
        injection hp with hp
        rw [← hp]; simp
    obtain ⟨ph', hi⟩ := ih ((s.creditRound a).at (answersOf s.cfg as ++ rest) ph.tick)
      ((State.creditRounds_at _ _ _ _).trans hrs) (by simp)
    refine ⟨ph', ?_⟩
    rw [List.length_cons, Nat.add_right_comm]
    simp only [waitCreditFor, readState_bind, hc, Bool.false_eq_true, if_false]
    rw [bind_run_ok hp]
    have hgo : ∀ u : State, (match o with
        | .err (.busFailure c) => (raise (.busFailure c) : Proc Unit)
        | _ => sleep s.cfg.creditSleep >>= fun _ => waitCreditFor (as.length + n)) u =
        waitCreditFor (as.length + n) (u.emit (.sleep s.cfg.creditSleep)) := by
      intro u
      split
      · next c => exact absurd rfl (hb c)
      · rfl
    refine (hgo _).trans (Eq.trans ?_ (hi.trans ?_))
    · rfl
    · rw [State.foldl_creditRound_at]; rfl

/-- The credit wait that brings credit (R204). -/
theorem waitCredit_arrives {as : List PollAnswers} {s : State} {rest : List Answer} (hr : s.creditRounds as = true)
    (hn : as.length ≤ s.cfg.creditRetries) (h : s.answers = answersOf s.cfg as ++ rest)
    (hc : hasCredit (as.foldl State.creditRound s).seq (as.foldl State.creditRound s).creditMax = true) :
    ∃ ph, waitCredit s = .ok () ((as.foldl State.creditRound s).at rest ph) := by
  obtain ⟨n, hn⟩ := Nat.exists_eq_add_of_le hn
  obtain ⟨ph, hw⟩ := waitCreditFor_rounds as n s rest hr h
  refine ⟨ph, ?_⟩
  simp only [waitCredit, readState_bind, hn, hw]
  cases n <;> simp [waitCreditFor, hc]

/-- The credit wait that uses up its retries (R204). -/
theorem waitCredit_timeout {as : List PollAnswers} {s : State} {rest : List Answer} (hr : s.creditRounds as = true)
    (hn : as.length = s.cfg.creditRetries) (h : s.answers = answersOf s.cfg as ++ rest)
    (hc : hasCredit (as.foldl State.creditRound s).seq (as.foldl State.creditRound s).creditMax = false) :
    ∃ ph, waitCredit s = .error (.raise .creditTimeout) ((as.foldl State.creditRound s).at rest ph) := by
  obtain ⟨ph, hw⟩ := waitCreditFor_rounds as 0 s rest hr h
  refine ⟨ph, ?_⟩
  simp only [waitCredit, readState_bind, ← hn, Nat.add_zero] at hw ⊢
  rw [hw]
  simp [waitCreditFor, hc]

/-- The credit wait in which the host submits an operation from inside a delivery (R291). -/
theorem waitCredit_stuck {as : List PollAnswers} {s : State} {p : Poll} {rest : List Answer} {e : PortEvent}
    {more : List Bool} (hr : s.creditRounds as = true) (hn : as.length < s.cfg.creditRetries)
    (hc : hasCredit (as.foldl State.creditRound s).seq (as.foldl State.creditRound s).creditMax = false)
    (h : s.answers = answersOf s.cfg as ++ (p.answers s.cfg ++ rest)) (hf : p.finds s.cfg = true)
    (hd : delivery s.cfg (as.foldl State.creditRound s).cbSet (p.packet s.cfg) = some e)
    (hm : (as.foldl State.creditRound s).reentries = true :: more) :
    ∃ ph, waitCredit s = .error .stuck
      { (((as.foldl State.creditRound s).received p).at rest ph).emit e with reentries := more } := by
  obtain ⟨n, hn⟩ := Nat.exists_eq_add_of_lt hn
  obtain ⟨ph, hw⟩ := waitCreditFor_rounds as (n + 1) s _ hr h
  rw [← Nat.add_assoc] at hw
  generalize hu : as.foldl State.creditRound s = u at *
  have hcfg : u.cfg = s.cfg := by rw [← hu, State.foldl_creditRound_cfg]
  simp only [waitCredit, readState_bind, hn, hw]
  refine ⟨Phase.tick^[(p.events u.cfg).length] ph, ?_⟩
  simp only [waitCreditFor, readState_bind, State.at_seq, State.at_creditMax, hc, Bool.false_eq_true, if_false]
  rw [bind_run_error (pollAndDispatch_reentry (s := u.at (p.answers s.cfg ++ rest) ph) (by rw [State.at_cfg, hcfg]; rfl)
    (by rw [State.at_cfg, hcfg]; exact hf) (by rw [State.at_cfg, hcfg]; exact hd) hm)]
  rfl

/-! ### The two senders -/

/-- A control frame is its header and its body (R206, R211). -/
theorem controlFrame_eq (seq : Byte) (body : List Byte) :
    encSdpcm (txHeader seq 0 (sdpcmLen + body.length) sdpcmLen) ++ body = controlFrame seq body := by
  simp [controlFrame, encSdpcm, txHeader, sdpcmLen, le16]

@[simp] theorem controlFrame_length (seq : Byte) (body : List Byte) :
    (controlFrame seq body).length = 12 + body.length := by
  rw [← controlFrame_eq]; simp

/-- The size checks of TXCTL as one choice (R210, R211): no room, too long, or past them. -/
theorem checkControlSize_run (n : Nat) (s : State) :
    checkControlSize n s =
      if n < 16 ∨ s.cfg.ioctlBufSize < roundup4 (12 + n) then .error (.raise .bufferTooSmall) s
      else if s.cfg.busMaxXfer < 12 + n then .error (.raise (.invalidArgument .length)) s
      else .ok () s := by
  have hroom : (decide (n < cdcLen) || decide (s.cfg.ioctlBufSize < roundup4 (sdpcmLen + n))) = true ↔
      (n < 16 ∨ s.cfg.ioctlBufSize < roundup4 (12 + n)) := by
    rw [Bool.or_eq_true, decide_eq_true_eq, decide_eq_true_eq]; exact Iff.rfl
  simp only [checkControlSize, readState_bind]
  by_cases h1 : n < 16 ∨ s.cfg.ioctlBufSize < roundup4 (12 + n)
  · rw [if_pos h1, if_pos (hroom.2 h1)]; rfl
  rw [if_neg h1, if_neg (mt hroom.1 h1)]
  by_cases h2 : s.cfg.busMaxXfer < 12 + n
  · rw [if_pos h2, guardArg_run]; exact if_neg (by rw [decide_eq_true_eq]; exact Nat.not_le.2 h2)
  · rw [if_neg h2, guardArg_run]; exact if_pos (decide_eq_true (Nat.not_lt.1 h2))

/-- A control body that breaks no size limit (R210, R211). -/
theorem checkControlSize_pass {n : Nat} {s : State} (h1 : 16 ≤ n) (h2 : roundup4 (12 + n) ≤ s.cfg.ioctlBufSize)
    (h3 : 12 + n ≤ s.cfg.busMaxXfer) : checkControlSize n s = .ok () s := by
  rw [checkControlSize_run, if_neg (by omega), if_neg (by omega)]

/-- Where the size checks of TXCTL end: past them, or in an error; the state is as it was. -/
theorem checkControlSize_ends {n : Nat} {s : State} {Q : Unit → State → Prop} {E : Stop → State → Prop}
    (hQ : 16 ≤ n → roundup4 (12 + n) ≤ s.cfg.ioctlBufSize → 12 + n ≤ s.cfg.busMaxXfer → Q () s)
    (hE : ∀ e, E (.raise e) s) : Ends (checkControlSize n) s Q E := by
  unfold Ends
  rw [checkControlSize_run]
  by_cases h1 : n < 16 ∨ s.cfg.ioctlBufSize < roundup4 (12 + n)
  · rw [if_pos h1]; exact hE _
  by_cases h2 : s.cfg.busMaxXfer < 12 + n
  · rw [if_neg h1, if_pos h2]; exact hE _
  · rw [if_neg h1, if_neg h2]; exact hQ (by omega) (by omega) (by omega)

/-- TXCTL past its credit wait, its write answered (R211). -/
theorem txCtl_sends {body : List Byte} {s t : State} {st : Word} {rest : List Answer} (hw : waitCredit s = .ok () t)
    (h1 : 16 ≤ body.length) (h2 : roundup4 (12 + body.length) ≤ s.cfg.ioctlBufSize)
    (h3 : 12 + body.length ≤ s.cfg.busMaxXfer) (h : t.answers = reply t.cfg [] st :: rest) :
    txCtl body s = .ok () ((t.sentControl body st).at rest t.phase.tick) := by
  simp only [txCtl]
  rw [bind_run_ok (checkControlSize_pass h1 h2 h3), bind_run_ok hw]
  simp only [buildHeader, bind_assoc, readState_bind, update_bind, pure_bind_run, controlFrame_eq, sendFrame]
  have hs : ({ t with seq := t.seq + 1 } : State).storeBuffer .ioctl (padWords (controlFrame t.seq body)) =
      { t with seq := t.seq + 1
               ioctlBuf := Memory.write t.ioctlBuf 0 (padWords (controlFrame t.seq body)) } := rfl
  rw [hs]
  have hb : ({ t with seq := t.seq + 1
                      ioctlBuf := Memory.write t.ioctlBuf 0 (padWords (controlFrame t.seq body)) } : State).bufSlice
      .ioctl 0 (sdpcmLen + body.length) = controlFrame t.seq body := by
    rw [State.bufSlice_of_write (bs := padWords (controlFrame t.seq body)) rfl
      (by simp [padWords, sdpcmLen])]
    simp [padWords, slice, sdpcmLen]
  rw [hb, memWrite_reply (by exact h)]
  simp [State.chipWrites, writtenByte, writeCommand, decCmd_mkcmd, fnWlan, fnBackplane, State.answered,
    State.sentControl, State.at]

/-- TXCTL with credit, its write answered (R211). -/
theorem txCtl_ok {body : List Byte} {s : State} {st : Word} {rest : List Answer}
    (hc : hasCredit s.seq s.creditMax = true) (h1 : 16 ≤ body.length)
    (h2 : roundup4 (12 + body.length) ≤ s.cfg.ioctlBufSize) (h3 : 12 + body.length ≤ s.cfg.busMaxXfer)
    (h : s.answers = reply s.cfg [] st :: rest) :
    txCtl body s = .ok () ((s.sentControl body st).at rest s.phase.tick) :=
  txCtl_sends (waitCredit_credit hc) h1 h2 h3 h

/-- A data frame is its headers and its payload (R138, R206 to R208, R212). -/
theorem dataFrame_eq (cfg : Config) (seq : Byte) (iface : Nat) (frame : List Byte) :
    dataFrame cfg (txHeader seq 2 (dataTotal frame) (sdpcmLen + dataPad)) iface frame =
      dataFrameBytes cfg seq iface frame := by
  simp only [dataFrame, dataFrameBytes, dataTotal, bdcLen, encSdpcm, txHeader, txBdc, encBdc, zeros, sdpcmLen, dataPad]
  simp [le16]

/-- TXDATA past its credit wait, its write answered (R212). -/
theorem txData_sends {iface : Nat} {frame : List Byte} {s t : State} {st : Word} {rest : List Answer}
    (hw : waitCredit s = .ok () t) (h1 : iface ≤ s.cfg.ifaceMax) (h2 : 1 ≤ frame.length)
    (h3 : 18 + frame.length ≤ s.cfg.busMaxXfer) (hcfg : t.cfg = s.cfg) (h : t.answers = reply t.cfg [] st :: rest) :
    txData iface frame s = .ok () ((t.sentData iface frame st).at rest t.phase.tick) := by
  have hn : dataTotal frame = 18 + frame.length := by simp only [dataTotal, sdpcmLen, dataPad, bdcLen]
  simp only [txData, checkInterface, bind_assoc, readState_bind]
  rw [guardArg_pass (by simpa using h1), guardArg_pass (by rw [bne_iff_ne]; omega),
    guardArg_pass (by rw [decide_eq_true_eq, hn]; exact h3), bind_run_ok hw]
  simp only [buildHeader, bind_assoc, readState_bind, update_bind, pure_bind_run, sendFrame, dataFrame_eq, ← hcfg]
  rw [memWrite_reply (by exact h)]
  simp [State.chipWrites, writtenByte, writeCommand, decCmd_mkcmd, fnWlan, fnBackplane, State.answered,
    State.sentData, State.at]

end Sys2Proof.Machine
end

