-- ==== Sys2Proof/Laws/Ioctl.lean ====
section
/-! SUPPORT. Laws/Ioctl.lean: what a request and the response wait can do (spec/43_ioctl_iovar.md). -/

namespace Sys2Proof.Machine

/-- The body of a request (R235). -/
theorem requestBody_eq (kind : BitVec 1) (cmd : Word) (iface : Nat) (id : Half) (payload : List Byte) :
    encCdc (requestHeader kind cmd iface id payload) ++ payload = requestBody kind cmd iface id payload := rfl

@[simp] theorem requestBody_length (kind : BitVec 1) (cmd : Word) (iface : Nat) (id : Half) (payload : List Byte) :
    (requestBody kind cmd iface id payload).length = 16 + payload.length := by
  rw [← requestBody_eq]; simp

theorem requestFits_iff {cfg : Config} {cmd : Word} {iface n : Nat} :
    requestFits cfg cmd iface n = true ↔
      iface ≤ cfg.ifaceMax ∧ cfg.cmdValid.valid cmd = true ∧ 28 + n ≤ cfg.busMaxXfer ∧
        roundup4 (28 + n) ≤ cfg.ioctlBufSize := by
  simp [requestFits, and_assoc]

/-- The checks of an ioctl whose operands pass them (R232, R233). -/
theorem checkIoctlArgs_pass {cmd : Word} {iface n : Nat} {s : State} (h : requestFits s.cfg cmd iface n = true) :
    checkIoctlArgs cmd iface n s = .ok () s := by
  obtain ⟨h1, h2, h3, -⟩ := requestFits_iff.1 h
  simp only [checkIoctlArgs, checkInterface, checkCommand, bind_assoc, readState_bind]
  rw [guardArg_pass (by simpa using h1), readState_bind, guardArg_pass h2, readState_bind, guardArg_run,
    if_pos (by rw [decide_eq_true_eq]; unfold requestOverhead sdpcmLen cdcLen; omega)]

theorem checkIoctlRoom_pass {cmd : Word} {iface n : Nat} {s : State} (h : requestFits s.cfg cmd iface n = true) :
    checkIoctlRoom n s = .ok () s := by
  obtain ⟨-, -, -, h4⟩ := requestFits_iff.1 h
  simp only [checkIoctlRoom, readState_bind]
  rw [if_neg (by change ¬ (s.cfg.ioctlBufSize < roundup4 (28 + n)); omega)]
  rfl

/-- The check of `iovar_buf` (R233). -/
theorem checkIovarRoom_run (n : Nat) (s : State) :
    checkIovarRoom n s = if s.cfg.iovarBufSize < n then .error (.raise .bufferTooSmall) s else .ok () s := by
  simp only [checkIovarRoom, readState_bind]
  split <;> rfl

theorem checkIovarRoom_pass {n : Nat} {s : State} (h : n ≤ s.cfg.iovarBufSize) : checkIovarRoom n s = .ok () s := by
  rw [checkIovarRoom_run, if_neg (by omega)]

/-- A request sent with credit, its write answered (R234, R235). -/
theorem sendRequest_ok {kind : BitVec 1} {cmd : Word} {iface : Nat} {payload : List Byte} {s : State} {st : Word}
    {rest : List Answer} (hc : hasCredit s.seq s.creditMax = true)
    (hf : requestFits s.cfg cmd iface payload.length = true) (h : s.answers = reply s.cfg [] st :: rest) :
    sendRequest kind cmd iface payload s =
      .ok () ((s.requested kind cmd iface payload st).at rest s.phase.tick) := by
  obtain ⟨-, -, h3, h4⟩ := requestFits_iff.1 hf
  simp only [sendRequest, update_bind, readState_bind, requestBody_eq]
  refine (txCtl_ok (s := { s with ioctlId := s.ioctlId + 1 }) (st := st) (rest := rest) hc ?_ ?_ ?_ h).trans rfl
  · simp
  · rw [requestBody_length]; exact (show 12 + (16 + payload.length) = 28 + payload.length by omega) ▸ h4
  · rw [requestBody_length]; exact (show 12 + (16 + payload.length) = 28 + payload.length by omega) ▸ h3

theorem controlPayload_bufSlice {s u : State} {p : Poll}
    (hu : u.rxBuf = Memory.write s.rxBuf 0 (p.packet s.cfg)) (hc : controlPacket (p.packet s.cfg) = true) :
    u.bufSlice .rx (subHeader (p.packet s.cfg) + 16)
      (frameSize (p.packet s.cfg) - (subHeader (p.packet s.cfg) + 16)) = controlPayload (p.packet s.cfg) := by
  simp only [controlPacket, framed, Bool.and_eq_true, beq_iff_eq, decide_eq_true_eq] at hc
  have h1 := hc.2
  have h2 : frameSize (p.packet s.cfg) ≤ (p.packet s.cfg).length := hc.1.1.2
  rw [State.bufSlice_of_write (b := .rx) (m := s.rxBuf) (bs := p.packet s.cfg) hu (by omega), controlPayload, Nat.add_sub_cancel' h1]

/-- The correlator on the matching ID and status 0 (R236). -/
theorem correlate_match {c : CdcHeader} {s : State} (h : idOf c.flags = s.ioctlId) (hs : c.status = 0) :
    correlate c s = .ok true s := by
  simp only [correlate, readState_bind, h, hs, if_true]
  rfl

/-- The correlator on the matching ID and another status (R237). -/
theorem correlate_chipError {c : CdcHeader} {s : State} (h : idOf c.flags = s.ioctlId) (hs : c.status ≠ 0) :
    correlate c s = .error (.raise (.chipError c.status)) s := by
  simp only [correlate, readState_bind, h, hs, if_true, if_false]
  rfl

/-- The correlator on another ID (R236). -/
theorem correlate_other {c : CdcHeader} {s : State} (h : idOf c.flags ≠ s.ioctlId) :
    correlate c s = .ok false (s.emit (.log .wrongId)) := by
  simp only [correlate, readState_bind, h, if_false]
  rfl

/-- A poll of the response wait that brings the matching response with status 0 (R238). -/
theorem pollResponse_match {s : State} {p : Poll} {rest : List Answer} (h : s.answers = p.answers s.cfg ++ rest)
    (hf : p.finds s.cfg = true) (hr : respondsTo s.ioctlId (p.packet s.cfg) = true)
    (hs : (cdcOf (p.packet s.cfg)).status = 0) :
    pollResponse s = .ok (some (controlPayload (p.packet s.cfg)))
      ((s.received p).at rest (Phase.tick^[(p.events s.cfg).length] s.phase)) := by
  simp only [respondsTo, Bool.and_eq_true, beq_iff_eq] at hr
  simp only [pollResponse]
  rw [bind_run_ok (pollAndDispatch_control h hf hr.1)]
  simp only []
  rw [bind_run_ok (correlate_match (s := (s.received p).at rest _) hr.2 hs)]
  simp only [if_true, readState_bind]
  rw [controlPayload_bufSlice rfl hr.1]
  rfl

/-- A poll of the response wait that brings the matching response with another status (R238). -/
theorem pollResponse_chipError {s : State} {p : Poll} {rest : List Answer} (h : s.answers = p.answers s.cfg ++ rest)
    (hf : p.finds s.cfg = true) (hr : respondsTo s.ioctlId (p.packet s.cfg) = true)
    (hs : (cdcOf (p.packet s.cfg)).status ≠ 0) :
    pollResponse s = .error (.raise (.chipError (cdcOf (p.packet s.cfg)).status))
      ((s.received p).at rest (Phase.tick^[(p.events s.cfg).length] s.phase)) := by
  simp only [respondsTo, Bool.and_eq_true, beq_iff_eq] at hr
  simp only [pollResponse]
  rw [bind_run_ok (pollAndDispatch_control h hf hr.1)]
  simp only []
  rw [bind_run_error (correlate_chipError (s := (s.received p).at rest _) hr.2 hs)]

/-- A poll of the response wait that brings a response with another ID (R236). -/
theorem pollResponse_other {s : State} {p : Poll} {rest : List Answer} (h : s.answers = p.answers s.cfg ++ rest)
    (hf : p.finds s.cfg = true) (hc : controlPacket (p.packet s.cfg) = true)
    (hi : idOf (cdcOf (p.packet s.cfg)).flags ≠ s.ioctlId) :
    pollResponse s = .ok none
      (((s.received p).at rest (Phase.tick^[(p.events s.cfg).length] s.phase)).emit (.log .wrongId)) := by
  simp only [pollResponse]
  rw [bind_run_ok (pollAndDispatch_control h hf hc)]
  simp only []
  rw [bind_run_ok (correlate_other (s := (s.received p).at rest _) hi)]
  rfl

/-- A poll of the response wait that does not bring the response (R238). -/
theorem pollResponse_none {s : State} {a : PollAnswers} {rest : List Answer} (h : s.answers = a.list s.cfg ++ rest)
    (hf : a.fits s.cfg = true) (hr : a.responds s.cfg s.ioctlId = false) (hn : s.reenters a = false) :
    ∃ ph, pollResponse s = .ok none
      (State.at { s.polledBy a with
          trace := (s.polledBy a).trace ++
            (if (a.packet? s.cfg).any controlPacket then [PortEvent.log .wrongId] else []) } rest ph) := by
  obtain ⟨o, ph, hp, ⟨hc, ho⟩ | ⟨p, rfl, hfi, hcp, hpb⟩⟩ := pollAndDispatch_answers h hf hn
  · refine ⟨ph, ?_⟩
    simp only [pollResponse, hc, Bool.false_eq_true, if_false, List.append_nil]
    rw [bind_run_ok hp]
    split
    · next c => exact absurd rfl (ho.1 c)
    · next off n cdc => exact absurd rfl (ho.2 off n cdc)
    · rfl
  · have hpk : (PollAnswers.two p).packet? s.cfg = some (p.packet s.cfg) := by
      simp [PollAnswers.packet?, (Poll.finds_iff.1 hfi).2]
    have hid : idOf (cdcOf (p.packet s.cfg)).flags ≠ s.ioctlId := by
      simpa [PollAnswers.responds, hpk, respondsTo, hcp] using hr
    refine ⟨(Phase.tick^[(p.events s.cfg).length] s.phase).tick, (pollResponse_other h hfi hcp hid).trans ?_⟩
    rw [hpb, hpk, if_pos (by simpa using hcp)]
    rfl

theorem awaitResponseFor_some {n : Nat} {s t : State} {b : List Byte} (h : pollResponse s = .ok (some b) t) :
    awaitResponseFor (n + 1) s = .ok b t := by
  simp only [awaitResponseFor]
  rw [bind_run_ok h]
  rfl

theorem awaitResponseFor_none {n : Nat} {s t : State} (h : pollResponse s = .ok none t) :
    awaitResponseFor (n + 1) s = awaitResponseFor n (t.emit (.sleep t.cfg.ioctlSleep)) := by
  simp only [awaitResponseFor]
  rw [bind_run_ok h]
  rfl

theorem awaitResponseFor_error {n : Nat} {s t : State} {e : Stop} (h : pollResponse s = .error e t) :
    awaitResponseFor (n + 1) s = .error e t := by
  simp only [awaitResponseFor]
  rw [bind_run_error h]

/-- The response wait makes its rounds and goes on from there (R238). -/
theorem awaitResponseFor_rounds (as : List PollAnswers) (n : Nat) (s : State) (rest : List Answer)
    (hr : s.ioctlRounds as = true) (h : s.answers = answersOf s.cfg as ++ rest) :
    ∃ ph, awaitResponseFor (as.length + n) s = awaitResponseFor n ((as.foldl State.ioctlRound s).at rest ph) := by
  induction as generalizing s with
  | nil =>
    exact ⟨s.phase, by rw [← show s.answers = rest from h, List.foldl_nil, State.at_self, List.length_nil, Nat.zero_add]⟩
  | cons a as ih =>
    rw [answersOf_cons] at h
    simp only [State.ioctlRounds, Bool.and_eq_true, Bool.not_eq_true'] at hr
    obtain ⟨⟨⟨hf, hi⟩, hn⟩, hrs⟩ := hr
    obtain ⟨ph, hp⟩ := pollResponse_none h hf hi hn
    obtain ⟨ph', hw⟩ := ih ((s.ioctlRound a).at (answersOf s.cfg as ++ rest) ph.tick)
      ((State.ioctlRounds_at _ _ _ _).trans hrs) (by simp)
    refine ⟨ph', ?_⟩
    rw [List.length_cons, Nat.add_right_comm, awaitResponseFor_none hp]
    refine Eq.trans ?_ (hw.trans ?_)
    · simp only [State.emit, State.ioctlRound, State.at, State.polledBy_cfg]
    · rw [State.foldl_ioctlRound_at]; rfl

/-- The response wait that brings the response with status 0 (R238). -/
theorem awaitResponseFor_match {as : List PollAnswers} {n : Nat} {s : State} {q : Poll} {rest : List Answer}
    (hr : s.ioctlRounds as = true) (hn : as.length < n) (h : s.answers = answersOf s.cfg as ++ (q.answers s.cfg ++ rest))
    (hf : q.finds s.cfg = true) (hi : respondsTo s.ioctlId (q.packet s.cfg) = true)
    (hs : (cdcOf (q.packet s.cfg)).status = 0) :
    ∃ ph, awaitResponseFor n s =
      .ok (controlPayload (q.packet s.cfg)) (((as.foldl State.ioctlRound s).received q).at rest ph) := by
  obtain ⟨k, rfl⟩ := Nat.exists_eq_add_of_lt hn
  obtain ⟨ph, hw⟩ := awaitResponseFor_rounds as (k + 1) s _ hr h
  rw [Nat.add_assoc, hw]
  generalize hu : as.foldl State.ioctlRound s = u at *
  have hcfg : u.cfg = s.cfg := by rw [← hu, State.foldl_ioctlRound_cfg]
  have hid : u.ioctlId = s.ioctlId := by rw [← hu, State.foldl_ioctlRound_ioctlId]
  refine ⟨Phase.tick^[(q.events u.cfg).length] ph, ?_⟩
  rw [← hcfg] at hf hi hs ⊢
  rw [← hid] at hi
  exact awaitResponseFor_some (pollResponse_match (s := u.at (q.answers u.cfg ++ rest) ph) rfl hf hi hs)

/-- The response wait that brings the response with another status (R237, R238). -/
theorem awaitResponseFor_chipError {as : List PollAnswers} {n : Nat} {s : State} {q : Poll} {rest : List Answer}
    (hr : s.ioctlRounds as = true) (hn : as.length < n) (h : s.answers = answersOf s.cfg as ++ (q.answers s.cfg ++ rest))
    (hf : q.finds s.cfg = true) (hi : respondsTo s.ioctlId (q.packet s.cfg) = true)
    (hs : (cdcOf (q.packet s.cfg)).status ≠ 0) :
    ∃ ph, awaitResponseFor n s = .error (.raise (.chipError (cdcOf (q.packet s.cfg)).status))
      (((as.foldl State.ioctlRound s).received q).at rest ph) := by
  obtain ⟨k, rfl⟩ := Nat.exists_eq_add_of_lt hn
  obtain ⟨ph, hw⟩ := awaitResponseFor_rounds as (k + 1) s _ hr h
  rw [Nat.add_assoc, hw]
  generalize hu : as.foldl State.ioctlRound s = u at *
  have hcfg : u.cfg = s.cfg := by rw [← hu, State.foldl_ioctlRound_cfg]
  have hid : u.ioctlId = s.ioctlId := by rw [← hu, State.foldl_ioctlRound_ioctlId]
  refine ⟨Phase.tick^[(q.events u.cfg).length] ph, ?_⟩
  rw [← hcfg] at hf hi hs ⊢
  rw [← hid] at hi
  exact awaitResponseFor_error (pollResponse_chipError (s := u.at (q.answers u.cfg ++ rest) ph) rfl hf hi hs)

/-- The response wait that uses up its retries (R238). -/
theorem awaitResponseFor_timeout {as : List PollAnswers} {s : State} {rest : List Answer} (hr : s.ioctlRounds as = true)
    (h : s.answers = answersOf s.cfg as ++ rest) :
    ∃ ph, awaitResponseFor as.length s = .error (.raise .ioctlPollTimeout) ((as.foldl State.ioctlRound s).at rest ph) :=
  awaitResponseFor_rounds as 0 s rest hr h

/-- The response wait in which the host submits an operation from inside a delivery (R291). -/
theorem awaitResponseFor_stuck {as : List PollAnswers} {n : Nat} {s : State} {p : Poll} {rest : List Answer}
    {e : PortEvent} {more : List Bool} (hr : s.ioctlRounds as = true) (hn : as.length < n)
    (h : s.answers = answersOf s.cfg as ++ (p.answers s.cfg ++ rest)) (hf : p.finds s.cfg = true)
    (hd : delivery s.cfg (as.foldl State.ioctlRound s).cbSet (p.packet s.cfg) = some e)
    (hm : (as.foldl State.ioctlRound s).reentries = true :: more) :
    ∃ ph, awaitResponseFor n s = .error .stuck
      { (((as.foldl State.ioctlRound s).received p).at rest ph).emit e with reentries := more } := by
  obtain ⟨k, rfl⟩ := Nat.exists_eq_add_of_lt hn
  obtain ⟨ph, hw⟩ := awaitResponseFor_rounds as (k + 1) s _ hr h
  rw [Nat.add_assoc, hw]
  generalize hu : as.foldl State.ioctlRound s = u at *
  have hcfg : u.cfg = s.cfg := by rw [← hu, State.foldl_ioctlRound_cfg]
  refine ⟨Phase.tick^[(p.events u.cfg).length] ph, ?_⟩
  rw [← hcfg] at hf hd ⊢
  refine awaitResponseFor_error ?_
  simp only [pollResponse]
  rw [bind_run_error (pollAndDispatch_reentry (s := u.at (p.answers u.cfg ++ rest) ph) rfl hf hd hm)]
  rfl

end Sys2Proof.Machine
end

