-- ==== Sys2Proof/Laws/Window.lean ====
section
/-! SUPPORT. Laws/Window.lean: what SetWindow can do (spec/41_backplane_window.md R182). -/

namespace Sys2Proof.Machine

/-- Every SETWIN writes only selector registers. -/
theorem selectorsDue_mem {s : State} {a : Word} {p : BusAddr × Byte} (h : p ∈ s.selectorsDue a) :
    p.1 ∈ [s.cfg.regWinHigh, s.cfg.regWinMid, s.cfg.regWinLow] := by
  unfold State.selectorsDue at h
  simp only [List.mem_append] at h
  rcases h with (h | h) | h <;> split at h <;> simp_all

/-- SETWIN with an invalid cache writes all three registers (R182 corner case b). -/
theorem selectorsDue_invalid {s : State} (h : s.winValid = false) (a : Word) :
    (s.selectorsDue a).map (·.1) = [s.cfg.regWinHigh, s.cfg.regWinMid, s.cfg.regWinLow] := by
  simp [State.selectorsDue, State.selectorDue, h]

/-- SETWIN into the cached window writes nothing (R182 corner case a). -/
theorem selectorsDue_same {s : State} (h : s.winValid = true) {a : Word} (hw : windowOf a = s.win) :
    s.selectorsDue a = [] := by
  simp [State.selectorsDue, State.selectorDue, h, hw]

/-- One selector write, as the list of the writes it makes. -/
theorem writeSelector_run (e : State) (w : Word) (reg : BusAddr) (k : Nat) (s : State) :
    writeSelector e w reg k s =
      if e.selectorDue w k then memWrite fnBackplane reg [wordByte w k] s else .ok () s := by
  unfold writeSelector State.selectorDue
  split <;> rfl

/-- A one-byte write to the backplane function changes the selector register it addresses and no other. -/
theorem chipWrites_byte (s : State) (reg : BusAddr) (b : Byte) :
    (s.chipWrites (writeCommand fnBackplane reg 1) (padWords [b])).chipSel =
      ⟨if reg = s.cfg.regWinHigh then b else s.chipSel.high, if reg = s.cfg.regWinMid then b else s.chipSel.mid,
        if reg = s.cfg.regWinLow then b else s.chipSel.low⟩ := by
  have h := chipWrites_write s fnBackplane reg [b] (by simp)
  have key (r : BusAddr) (old : Byte) :
      (if reg.toNat ≤ r.toNat ∧ r.toNat < reg.toNat + 1 then
        byteAt [b] (r.toNat - reg.toNat) else old) = if reg = r then b else old := by
    by_cases hr : reg = r
    · subst hr; simp [byteAt]
    · have : reg.toNat ≠ r.toNat := fun hc => hr (BitVec.eq_of_toNat_eq hc)
      rw [if_neg hr, if_neg (by omega)]
  simpa only [selectorsAfter, List.length_singleton, true_and, key] using h

/-- A selector write that is not due does nothing. -/
theorem writeSelector_skip {e : State} {w : Word} {k : Nat} (hd : e.selectorDue w k = false) (reg : BusAddr)
    (s : State) : writeSelector e w reg k s = .ok () s := by
  rw [writeSelector_run, hd]
  rfl

/-- A selector write that is due and answered. -/
theorem writeSelector_write {e : State} {w : Word} {reg : BusAddr} {k : Nat} {s : State} {st : Word}
    {rest : List Answer} (hd : e.selectorDue w k = true) (h : s.answers = reply s.cfg [] st :: rest) :
    writeSelector e w reg k s = .ok ()
      { s with
        chipSel :=
          ⟨if reg = s.cfg.regWinHigh then wordByte w k else s.chipSel.high,
            if reg = s.cfg.regWinMid then wordByte w k else s.chipSel.mid,
            if reg = s.cfg.regWinLow then wordByte w k else s.chipSel.low⟩
        answers := rest
        lastStatus := st
        phase := s.phase.tick
        trace := s.trace ++ [writeEvent s.cfg fnBackplane reg [wordByte w k] st] } := by
  rw [writeSelector_run, hd, if_pos rfl, memWrite_reply h, ← chipWrites_byte s reg (wordByte w k)]
  rfl

/-- A selector write ends as a write does, or does nothing. -/
theorem writeSelector_ends {e : State} {w : Word} {reg : BusAddr} {k : Nat} {s : State} {Q : Unit → State → Prop}
    {E : Stop → State → Prop} (hskip : e.selectorDue w k = false → Q () s)
    (hwrite : e.selectorDue w k = true → Ends (memWrite fnBackplane reg [wordByte w k]) s Q E) :
    Ends (writeSelector e w reg k) s Q E := by
  unfold Ends
  rw [writeSelector_run]
  cases hd : e.selectorDue w k
  · exact hskip hd
  · exact hwrite hd

theorem invalidating_ok {p : Proc Unit} {s t : State} (h : p s = .ok () t) : invalidating p s = .ok () t := by
  simp [invalidating, h]

theorem invalidating_error {p : Proc Unit} {s t : State} {e : Stop} (h : p s = .error e t) :
    invalidating p s = .error e { t with winValid := false } := by
  simp [invalidating, h]

/-- What fails inside leaves the cache invalid (R182, R352). -/
theorem ends_invalidating {p : Proc Unit} {s : State} {Q : Unit → State → Prop} {E : Stop → State → Prop}
    (h : Ends p s Q (fun e t => E e { t with winValid := false })) : Ends (invalidating p) s Q E := by
  unfold Ends invalidating at *
  cases hp : p s with
  | ok a t => rw [hp] at h; exact h
  | error e t => rw [hp] at h; exact h

/-- The state after one selector write, due or not, answered by the status words `sts`. -/
def selectorStep (e : State) (w : Word) (reg : BusAddr) (k : Nat) (sts : List Word) (rest : List Answer)
    (s : State) : State :=
  { s with
    chipSel :=
      ⟨if e.selectorDue w k ∧ reg = s.cfg.regWinHigh then wordByte w k else s.chipSel.high,
        if e.selectorDue w k ∧ reg = s.cfg.regWinMid then wordByte w k else s.chipSel.mid,
        if e.selectorDue w k ∧ reg = s.cfg.regWinLow then wordByte w k else s.chipSel.low⟩
    answers := rest
    lastStatus := sts.getLastD s.lastStatus
    phase := Phase.tick^[sts.length] s.phase
    trace := s.trace ++ sts.map (writeEvent s.cfg fnBackplane reg [wordByte w k]) }

theorem writeSelector_step {e : State} {w : Word} {k : Nat} {s : State} {sts : List Word} {rest : List Answer}
    (reg : BusAddr) (hl : sts.length = if e.selectorDue w k then 1 else 0)
    (h : s.answers = sts.map (reply s.cfg []) ++ rest) :
    writeSelector e w reg k s = .ok () (selectorStep e w reg k sts rest s) := by
  cases hd : e.selectorDue w k <;> rw [hd] at hl
  · obtain rfl : sts = [] := List.eq_nil_of_length_eq_zero hl
    rw [writeSelector_skip hd, selectorStep, hd]
    simp only [List.map_nil, List.nil_append] at h
    simp [← h]
  · obtain ⟨st, rfl⟩ := List.length_eq_one_iff.1 hl
    rw [writeSelector_write hd h, selectorStep, hd]
    simp

/-- SetWindow whose writes are all answered (R182): the next state. -/
theorem setWindow_ok {a : Word} {s : State} {sts : List Word} {rest : List Answer} (hw : s.cfg.wf = true)
    (hl : sts.length = (s.selectorsDue a).length) (h : s.answers = sts.map (reply s.cfg []) ++ rest) :
    setWindow a s = .ok ()
      { s.selected a sts with answers := rest, phase := Phase.tick^[sts.length] s.phase } := by
  obtain ⟨h1, h2, h3⟩ : s.cfg.regWinHigh ≠ s.cfg.regWinMid ∧ s.cfg.regWinHigh ≠ s.cfg.regWinLow ∧
      s.cfg.regWinMid ≠ s.cfg.regWinLow := by
    simp only [Config.wf, Config.wfWindow, Bool.and_eq_true, bne_iff_ne] at hw
    tauto
  have hsplit : ∃ s3 s2 s1 : List Word, sts = s3 ++ (s2 ++ s1) ∧
      s3.length = (if s.selectorDue (windowOf a) 3 then 1 else 0) ∧
      s2.length = (if s.selectorDue (windowOf a) 2 then 1 else 0) ∧
      s1.length = (if s.selectorDue (windowOf a) 1 then 1 else 0) := by
    have hsum : sts.length = (if s.selectorDue (windowOf a) 3 then 1 else 0) +
        (if s.selectorDue (windowOf a) 2 then 1 else 0) + (if s.selectorDue (windowOf a) 1 then 1 else 0) := by
      rw [hl, State.selectorsDue, List.length_append, List.length_append]
      congr 1 <;> [congr 1; skip] <;> split <;> rfl
    generalize (if s.selectorDue (windowOf a) 3 then 1 else 0) = n3 at hsum ⊢
    generalize (if s.selectorDue (windowOf a) 2 then 1 else 0) = n2 at hsum ⊢
    generalize (if s.selectorDue (windowOf a) 1 then 1 else 0) = n1 at hsum ⊢
    refine ⟨sts.take n3, (sts.drop n3).take n2, (sts.drop n3).drop n2, by simp, ?_, ?_, ?_⟩ <;>
      simp <;> omega
  obtain ⟨s3, s2, s1, rfl, l3, l2, l1⟩ := hsplit
  simp only [List.map_append, List.append_assoc] at h
  have r3 := writeSelector_step s.cfg.regWinHigh l3 h
  have r2 := writeSelector_step (s := selectorStep s (windowOf a) s.cfg.regWinHigh 3 s3
    (s2.map (reply s.cfg []) ++ (s1.map (reply s.cfg []) ++ rest)) s) s.cfg.regWinMid l2 rfl
  have r1 := writeSelector_step (s := selectorStep s (windowOf a) s.cfg.regWinMid 2 s2
    (s1.map (reply s.cfg []) ++ rest) (selectorStep s (windowOf a) s.cfg.regWinHigh 3 s3
    (s2.map (reply s.cfg []) ++ (s1.map (reply s.cfg []) ++ rest)) s)) s.cfg.regWinLow l1 rfl
  simp only [setWindow, readState_bind]
  rw [bind_run_ok (invalidating_ok ((bind_run_ok r3).trans ((bind_run_ok r2).trans r1)))]
  simp only [update_run, State.selected, State.selectorsFor, State.selectorEvents, State.selectorsDue, selectorStep]
  cases d3 : s.selectorDue (windowOf a) 3 <;> cases d2 : s.selectorDue (windowOf a) 2 <;>
    cases d1 : s.selectorDue (windowOf a) 1 <;> rw [d3] at l3 <;> rw [d2] at l2 <;> rw [d1] at l1
  all_goals
    first
      | have l3' : s3.length = 0 := l3
        obtain rfl := List.eq_nil_of_length_eq_zero l3'
      | have l3' : s3.length = 1 := l3
        obtain ⟨x, rfl⟩ := List.length_eq_one_iff.1 l3'
    first
      | have l2' : s2.length = 0 := l2
        obtain rfl := List.eq_nil_of_length_eq_zero l2'
      | have l2' : s2.length = 1 := l2
        obtain ⟨y, rfl⟩ := List.length_eq_one_iff.1 l2'
    first
      | have l1' : s1.length = 0 := l1
        obtain rfl := List.eq_nil_of_length_eq_zero l1'
      | have l1' : s1.length = 1 := l1
        obtain ⟨z, rfl⟩ := List.length_eq_one_iff.1 l1'
    simp [h1, h2, h3, h1.symm, h2.symm, h3.symm]

end Sys2Proof.Machine
end

