-- ==== Sys2Proof/Laws/Moves.lean ====
section
/-! SUPPORT. Laws/Moves.lean: all that the engine's procedures can do to the state, said once: a procedure ends after
finitely many moves. An invariant is then a case analysis over the moves. -/

namespace Sys2Proof.Machine

/-- What a poll can do. -/
inductive PollMove : State → State → Prop where
  | read {s : State} (fn : FnCode) (addr : BusAddr) (n : Nat) (back : List Byte) (st : Word) (hfn : fn ≠ 3)
      (hn : s.cfg.wf = true → 1 ≤ n ∧ n ≤ 2047) (hb : back.length = readLength fn n + 4) :
      PollMove s { s.nextAnswer.2.emit (.xfer (ser32 s.cfg.wireOrder (readCommand fn addr n)) (some back)) with
        lastStatus := st }
  | readFail {s : State} (fn : FnCode) (addr : BusAddr) (n : Nat) (hfn : fn ≠ 3)
      (hn : s.cfg.wf = true → 1 ≤ n ∧ n ≤ 2047) :
      PollMove s { s.nextAnswer.2.emit (.xfer (ser32 s.cfg.wireOrder (readCommand fn addr n)) none) with
        draws := s.nextAnswer.2.draws + 1 }
  | emit {s : State} (e : PortEvent) (he : e.isXfer = false) : PollMove s (s.emit e)
  | delivered {s : State} (e : PortEvent) (rest : List Bool) (he : e.isXfer = false) :
      PollMove s { s.emit e with reentries := rest }
  | flags {s : State} (irq : Word) : PollMove s (s.noteIrq irq)
  | store {s : State} (bs : List Byte) (hb : bs.length ≤ s.cfg.rxBufSize) : PollMove s (s.storeBuffer .rx bs)
  | credit {s : State} (c : Byte) : PollMove s { s with creditMax := c }

/-- What an operation can do. -/
inductive Move : State → State → Prop where
  | poll {s t : State} (h : PollMove s t) : Move s t
  | write {s : State} (fn : FnCode) (addr : BusAddr) (d back : List Byte) (st : Word) (hfn : fn ≠ 3)
      (hd : s.cfg.wf = true → 1 ≤ d.length ∧ d.length ≤ 2047) (hb : back.length = 4) :
      Move s { (s.nextAnswer.2.chipWrites (writeCommand fn addr d.length) (padWords d)).emit
        (.xfer (ser32 s.cfg.wireOrder (writeCommand fn addr d.length) ++ padWords d) (some back)) with
        lastStatus := st }
  | writeFail {s : State} (fn : FnCode) (addr : BusAddr) (d : List Byte) (hfn : fn ≠ 3)
      (hd : s.cfg.wf = true → 1 ≤ d.length ∧ d.length ≤ 2047) :
      Move s ((s.nextAnswer.2.chipUnknown (writeCommand fn addr d.length) (padWords d)).emit
        (.xfer (ser32 s.cfg.wireOrder (writeCommand fn addr d.length) ++ padWords d) none))
  | store {s : State} (b : Buffer) (bs : List Byte) (hb : bs.length ≤ s.bufferSize b) : Move s (s.storeBuffer b bs)
  | seq {s : State} : Move s { s with seq := s.seq + 1 }
  | ioctlId {s : State} : Move s { s with ioctlId := s.ioctlId + 1 }
  | status {s : State} (st : Word) : Move s { s with lastStatus := st }
  | callback {s : State} (b : Bool) : Move s { s with cbSet := b }
  | invalid {s : State} : Move s { s with winValid := false }
  | window {s : State} (a : Word) : Move s { s with win := windowOf a, winValid := true }

/-- Finitely many moves of polls. -/
abbrev PollMoves : State → State → Prop := Relation.ReflTransGen PollMove

/-- Finitely many moves. -/
abbrev Moves : State → State → Prop := Relation.ReflTransGen Move

variable {α β : Type}

/-- However `p` ends from `s`, it is reached from `s` by moves `r`. -/
abbrev Within (r : State → State → Prop) (p : Proc α) (s : State) : Prop :=
  Ends p s (fun _ t => Relation.ReflTransGen r s t) (fun _ t => Relation.ReflTransGen r s t)

section
variable {r : State → State → Prop} {s : State}

theorem within_mono {r' : State → State → Prop} {p : Proc α} (h : Within r p s) (hr : ∀ s t, r s t → r' s t) :
    Within r' p s :=
  Ends.mono h (fun _ _ h => Relation.ReflTransGen.mono hr _ _ h) (fun _ _ h => Relation.ReflTransGen.mono hr _ _ h)

theorem within_pure (a : α) : Within r (pure a : Proc α) s := ends_pure .refl

theorem within_raise (e : Err) : Within r (raise e : Proc α) s := ends_raise .refl

theorem within_update {f : State → State} (h : r s (f s)) : Within r (update f) s := ends_update (.single h)

/-- Sequence, where what follows needs to know what `p` has answered. -/
theorem within_bind_of {p : Proc α} {f : α → Proc β} {Q : α → State → Prop}
    (hp : Ends p s (fun a t => Q a t ∧ Relation.ReflTransGen r s t) (fun _ t => Relation.ReflTransGen r s t))
    (hf : ∀ a t, Q a t → Relation.ReflTransGen r s t → Within r (f a) t) : Within r (p >>= f) s :=
  Ends.bind hp fun a t h => Ends.mono (hf a t h.1 h.2) (fun _ _ h' => h.2.trans h') (fun _ _ h' => h.2.trans h')

/-- Sequence. -/
theorem within_bind {p : Proc α} {f : α → Proc β} (hp : Within r p s)
    (hf : ∀ a t, Relation.ReflTransGen r s t → Within r (f a) t) : Within r (p >>= f) s :=
  within_bind_of (Q := fun _ _ => True) (Ends.mono hp (fun _ _ h => ⟨trivial, h⟩) fun _ _ h => h)
    fun a t _ h => hf a t h

theorem within_guardArg_bind {ok : Bool} {w : Argument} {f : Unit → Proc β} (h : ok = true → Within r (f ()) s) :
    Within r (guardArg ok w >>= f) s := ends_guardArg_bind h .refl

theorem within_raise_bind (e : Err) (f : α → Proc β) : Within r ((raise e : Proc α) >>= f) s := ends_raise .refl

theorem within_attempt {p : Proc α} (h : Within r p s) : Within r (attempt p) s :=
  ends_attempt (Ends.mono h (fun _ _ h => h) fun e _ h => by cases e <;> exact h)

end

/-! ### What no move changes -/

@[simp] theorem nextAnswer_cfg (s : State) : s.nextAnswer.2.cfg = s.cfg := by
  unfold State.nextAnswer; split <;> rfl

theorem PollMove.cfg_eq {s t : State} (h : PollMove s t) : t.cfg = s.cfg := by
  cases h <;> simp [State.emit, State.noteIrq, State.storeBuffer]

theorem Move.cfg_eq {s t : State} (h : Move s t) : t.cfg = s.cfg := by
  cases h with
  | poll h => exact h.cfg_eq
  | store b bs _ => cases b <;> rfl
  | _ => simp [State.emit, State.chipWrites, State.chipUnknown]

theorem PollMoves.cfg_eq {s t : State} (h : PollMoves s t) : t.cfg = s.cfg := by
  induction h with
  | refl => rfl
  | tail _ h ih => exact h.cfg_eq.trans ih

theorem Moves.cfg_eq {s t : State} (h : Moves s t) : t.cfg = s.cfg := by
  induction h with
  | refl => rfl
  | tail _ h ih => exact h.cfg_eq.trans ih

theorem within_polls {p : Proc α} {s : State} (h : Within PollMove p s) : Within Move p s := within_mono h fun _ _ => .poll

/-! ### The receive path -/

theorem within_log (k : LogKind) (s : State) : Within PollMove (log k) s := within_update (.emit (.log k) rfl)

theorem within_sleep (d : Nat) (s : State) : Within PollMove (sleep d) s := within_update (.emit (.sleep d) rfl)

theorem within_deliver {e : PortEvent} (he : e.isXfer = false) (s : State) : Within PollMove (deliver e) s :=
  ends_deliver (fun rest => .single (.delivered e rest he)) (fun rest => .single (.delivered e rest he))

/-- A read makes one transaction, and answers as many bytes as asked for. -/
theorem memRead_moves {fn : FnCode} {addr : BusAddr} {n : Nat} {s : State} (hfn : fn ≠ 3)
    (hn : s.cfg.wf = true → 1 ≤ n ∧ n ≤ 2047) :
    Ends (memRead fn addr n) s (fun d t => d.length = n ∧ PollMoves s t) (fun _ t => PollMoves s t) :=
  memRead_ends (fun _ back st hd hb => ⟨hd, .single (.read fn addr n back st hfn hn hb)⟩)
    (fun back st hb => .single (.read fn addr n back st hfn hn hb)) (.single (.readFail fn addr n hfn hn))

theorem tryRead_moves {fn : FnCode} {addr : BusAddr} {n : Nat} {s : State} (hfn : fn ≠ 3)
    (hn : s.cfg.wf = true → 1 ≤ n ∧ n ≤ 2047) :
    Ends (tryRead fn addr n) s (fun o t => (∀ d ∈ o, d.length = n) ∧ PollMoves s t) (fun _ t => PollMoves s t) := by
  unfold tryRead
  refine Ends.bind (Q := fun o t => (∀ d, o = .ok d → d.length = n) ∧ PollMoves s t)
    (ends_attempt ((memRead_moves hfn hn).mono ?_ ?_)) ?_
  · rintro d t ⟨hd, ht⟩
    exact ⟨fun d' h => by cases h; exact hd, ht⟩
  · rintro (e | _) t ht
    · exact ⟨(fun d' h => by cases h), ht⟩
    · exact ht
  · rintro (e | d) t ⟨hd, ht⟩
    · cases e <;> first | exact ht | exact ⟨(fun d h => by cases h), ht⟩
    · exact ⟨fun d' h => by cases h; exact hd d rfl, ht⟩

theorem wf_transfers {c : Config} (h : c.wf = true) :
    c.busMaxXfer ≤ 2047 ∧ c.bpMaxXfer ≤ c.busMaxXfer ∧ 1 ≤ c.intStatusWidth ∧ c.intStatusWidth ≤ 4 := by
  simp only [Config.wf, Config.wfTransfers, Bool.and_eq_true, decide_eq_true_eq, List.contains_iff_mem,
    List.mem_cons, List.not_mem_nil, or_false] at h
  omega

theorem fetchPacket_moves (s : State) : Within PollMove fetchPacket s := by
  unfold fetchPacket
  refine ends_readState_bind ?_
  simp only []
  split
  · exact within_pure _
  · split
    · exact within_pure _
    · next hz =>
      split
      · exact within_bind (within_log _ _) fun _ _ _ => within_raise _
      · next hl =>
        simp only [rxTooLong, Bool.or_eq_true, decide_eq_true_eq, not_or, Nat.not_lt] at hl
        simp only [Bool.or_eq_true, beq_iff_eq, not_or] at hz
        refine within_bind_of (Q := fun o _ => ∀ d ∈ o, d.length = (decStatus s.cfg s.lastStatus).pktLen)
          (tryRead_moves (by decide) fun hw => ?_) ?_
        · have := wf_transfers hw
          omega
        · rintro (_ | d) t hd ht
          · exact within_pure _
          · refine within_bind (within_update (.store d ?_)) fun _ _ _ => within_pure _
            rw [hd d rfl, PollMoves.cfg_eq ht]
            exact hl.2

theorem busPoll_moves (s : State) : Within PollMove busPoll s := by
  unfold busPoll
  refine ends_readState_bind ?_
  refine within_bind_of (tryRead_moves (by decide) fun hw => ?_) ?_
  · have := wf_transfers hw
    omega
  · rintro (_ | d) t - -
    · exact within_pure _
    · refine within_bind (within_update (.flags _)) fun _ u _ => ?_
      by_cases h1 : irqHas (leValue d) s.cfg.irqF2PacketAvailable = true <;>
        by_cases h2 : irqHas (leValue d) s.cfg.irqDataUnavailable = true <;> simp only [h1, h2, if_true]
      · exact within_bind (within_log _ _) fun _ v _ => fetchPacket_moves v
      · exact fetchPacket_moves u
      · exact within_bind (within_log _ _) fun _ v _ => within_pure _
      · exact within_pure _

theorem classify_moves (h : SdpcmHeader) (b : List Byte) (s : State) : Within PollMove (classify h b) s := by
  have payload (u : State) : Within PollMove (bdcPayload h b) u := by
    unfold bdcPayload
    simp only []
    split
    · exact within_raise _
    · split
      · exact within_raise _
      · exact within_pure _
  unfold classify
  split
  · unfold parseControl
    simp only []
    split
    · exact within_raise _
    · exact within_pure _
  · unfold parseEvent
    refine within_bind (payload _) fun a t _ => ?_
    refine ends_readState_bind ?_
    split
    · exact within_pure _
    · exact within_pure _
  · exact within_bind (payload _) fun a t _ => within_pure _
  · exact within_raise _

theorem rxOne_moves (len : Nat) (s : State) : Within PollMove (rxOne len) s := by
  unfold Within Ends
  rw [rxOne_eq len s rfl]
  split
  · next h =>
    split at h
    · cases h
    split at h
    · cases h
    split at h
    · cases h
    split at h
    · cases h
    · have := classify_moves (headerOf (s.bufSlice .rx 0 len)) (s.bufSlice .rx 0 len)
        { s with creditMax := (headerOf (s.bufSlice .rx 0 len)).busCredit }
      unfold Within Ends at this
      rw [h] at this
      exact .head (.credit _) this
  · next h =>
    split at h
    · cases h; exact .refl
    split at h
    · cases h; exact .refl
    split at h
    · cases h; exact .single (.credit _)
    split at h
    · cases h; exact .single (.credit _)
    · have := classify_moves (headerOf (s.bufSlice .rx 0 len)) (s.bufSlice .rx 0 len)
        { s with creditMax := (headerOf (s.bufSlice .rx 0 len)).busCredit }
      unfold Within Ends at this
      rw [h] at this
      exact .head (.credit _) this

theorem route_moves (p : Packet) (s : State) : Within PollMove (route p) s := by
  unfold route
  refine ends_readState_bind ?_
  cases p with
  | control _ _ _ => exact within_pure _
  | data off n =>
    simp only []
    split
    · exact within_deliver rfl _
    · exact within_pure _
  | event off n => exact within_deliver rfl _
  | dropped _ => exact within_pure _

theorem pollAndDispatch_moves (s : State) : Within PollMove pollAndDispatch s := by
  unfold pollAndDispatch
  refine within_bind (within_attempt (busPoll_moves s)) fun a t _ => ?_
  rcases a with e | (why | len)
  · exact within_pure _
  · exact within_pure _
  · refine within_bind (within_attempt (rxOne_moves len t)) fun a u _ => ?_
    rcases a with e | p
    · cases e <;> first | exact within_bind (within_log _ _) fun _ _ _ => within_pure _ | exact within_pure _
    · exact within_bind (route_moves p u) fun _ _ _ => within_pure _

/-! ### The senders -/

theorem waitCreditFor_moves (n : Nat) (s : State) : Within PollMove (waitCreditFor n) s := by
  induction n generalizing s with
  | zero =>
    unfold waitCreditFor
    refine ends_readState_bind ?_
    split
    · exact within_pure _
    · exact within_raise _
  | succ n ih =>
    unfold waitCreditFor
    refine ends_readState_bind ?_
    split
    · exact within_pure _
    · refine within_bind (pollAndDispatch_moves s) fun a t _ => ?_
      have tail (t : State) : Within PollMove (do sleep s.cfg.creditSleep; waitCreditFor n) t :=
        within_bind (within_sleep _ _) fun _ u _ => ih u
      rcases a with why | p | e
      · exact tail t
      · exact tail t
      · cases e <;> first | exact within_raise _ | exact tail t

/-- The credit wait polls and sleeps, and if it ends well there is credit (R204). -/
theorem waitCredit_moves (s : State) :
    Ends waitCredit s (fun _ t => hasCredit t.seq t.creditMax = true ∧ PollMoves s t) (fun _ t => PollMoves s t) := by
  have key (n : Nat) (s : State) : Ends (waitCreditFor n) s (fun _ t => hasCredit t.seq t.creditMax = true)
      (fun _ _ => True) := by
    induction n generalizing s with
    | zero =>
      unfold waitCreditFor
      refine ends_readState_bind ?_
      split
      · next h => exact h
      · exact trivial
    | succ n ih =>
      unfold waitCreditFor
      refine ends_readState_bind ?_
      split
      · next h => exact h
      · refine Ends.bind (Q := fun _ _ => True) (Ends.mono (pollAndDispatch_moves s) (fun _ _ _ => trivial)
          fun _ _ _ => trivial) fun a t _ => ?_
        have tail (t : State) : Ends (do sleep s.cfg.creditSleep; waitCreditFor n) t
            (fun _ t => hasCredit t.seq t.creditMax = true) (fun _ _ => True) :=
          Ends.bind (Q := fun _ _ => True) trivial fun _ u _ => ih u
        rcases a with why | p | e
        · exact tail t
        · exact tail t
        · cases e <;> first | exact trivial | exact tail t
  have h1 := key s.cfg.creditRetries s
  have h2 := waitCreditFor_moves s.cfg.creditRetries s
  simp only [waitCredit]
  refine ends_readState_bind ?_
  unfold Within Ends at *
  split
  · next h => rw [h] at h1 h2; exact ⟨h1, h2⟩
  · next h => rw [h] at h2; exact h2

/-- A write makes one transaction. -/
theorem memWrite_moves {fn : FnCode} {addr : BusAddr} {d : List Byte} {s : State} (hfn : fn ≠ 3)
    (hd : s.cfg.wf = true → 1 ≤ d.length ∧ d.length ≤ 2047) : Within Move (memWrite fn addr d) s :=
  memWrite_ends (fun back st hb => .single (.write fn addr d back st hfn hd hb))
    (.single (.writeFail fn addr d hfn hd))

/-- A data phase not longer than a transfer (R104). -/
theorem memWrite_moves_of {fn : FnCode} {addr : BusAddr} {d : List Byte} {s : State} (hfn : fn ≠ 3)
    (h1 : 1 ≤ d.length) (h2 : d.length ≤ s.cfg.busMaxXfer) : Within Move (memWrite fn addr d) s :=
  memWrite_moves hfn fun hw => ⟨h1, h2.trans (wf_transfers hw).1⟩

theorem waitCredit_moves' (s : State) : Within Move waitCredit s :=
  within_polls (Ends.mono (waitCredit_moves s) (fun _ _ h => h.2) fun _ _ h => h)

theorem buildHeader_moves (chan : Byte) (total hl : Nat) (s : State) : Within Move (buildHeader chan total hl) s := by
  unfold buildHeader
  exact ends_readState_bind (within_bind (within_update (.seq (s := s))) fun _ _ _ => within_pure _)

theorem txCtl_moves (body : List Byte) (s : State) : Within Move (txCtl body) s := by
  unfold txCtl
  refine within_bind_of (Q := fun _ _ => 16 ≤ body.length ∧ roundup4 (12 + body.length) ≤ s.cfg.ioctlBufSize ∧
      12 + body.length ≤ s.cfg.busMaxXfer)
    (checkControlSize_ends (fun h1 h2 h3 => ⟨⟨h1, h2, h3⟩, .refl⟩) fun _ => .refl) fun _ t0 ⟨h1, h2, h3⟩ ht0 => ?_
  refine within_bind (waitCredit_moves' t0) fun _ t ht => within_bind (buildHeader_moves _ _ _ t) fun h u hu => ?_
  refine within_bind (within_update (.store .ioctl _ ?_)) fun _ v hv => ?_
  · change _ ≤ u.cfg.ioctlBufSize
    rw [Moves.cfg_eq hu, Moves.cfg_eq ht, Moves.cfg_eq ht0]
    simpa [sdpcmLen, Nat.add_comm] using h2
  · refine ends_readState_bind (ends_readState_bind (memWrite_moves_of (by decide) ?_ ?_))
    · simp only [State.bufSlice_length, sdpcmLen]; omega
    · rw [State.bufSlice_length, Moves.cfg_eq hv, Moves.cfg_eq hu, Moves.cfg_eq ht, Moves.cfg_eq ht0]
      exact h3

theorem txData_moves (iface : Nat) (frame : List Byte) (s : State) : Within Move (txData iface frame) s := by
  unfold txData checkInterface
  refine ends_readState_bind ?_
  simp only [bind_assoc]
  refine ends_readState_bind (within_guardArg_bind fun _ => within_guardArg_bind fun _ =>
    within_guardArg_bind fun h3 => within_bind (waitCredit_moves' s) fun _ t ht =>
    within_bind (buildHeader_moves _ _ _ t) fun h u hu => ?_)
  rw [decide_eq_true_eq] at h3
  have hl : (dataFrame s.cfg h iface frame).length = dataTotal frame := by
    simp [dataFrame, dataTotal, sdpcmLen, dataPad, bdcLen]; omega
  refine ends_readState_bind (memWrite_moves_of (by decide) ?_ ?_)
  · rw [hl]; unfold dataTotal sdpcmLen; omega
  · rw [hl, Moves.cfg_eq hu, Moves.cfg_eq ht]; exact h3

theorem correlate_moves (c : CdcHeader) (s : State) : Within PollMove (correlate c) s := by
  unfold correlate
  refine ends_readState_bind ?_
  split
  · split
    · exact within_pure _
    · exact within_raise _
  · exact within_bind (within_log _ _) fun _ _ _ => within_pure _

theorem awaitResponseFor_moves (n : Nat) (s : State) : Within PollMove (awaitResponseFor n) s := by
  induction n generalizing s with
  | zero => exact within_raise _
  | succ n ih =>
    have hp : Within PollMove pollResponse s := by
      unfold pollResponse
      refine within_bind (pollAndDispatch_moves s) fun a t _ => ?_
      split
      · exact within_raise _
      · refine within_bind (correlate_moves _ _) fun b u _ => ?_
        split
        · exact ends_readState_bind (within_pure _)
        · exact within_pure _
      · exact within_pure _
    unfold awaitResponseFor
    refine within_bind hp fun a t _ => ?_
    split
    · exact within_pure _
    · exact ends_readState_bind (within_bind (within_sleep _ _) fun _ u _ => ih u)

theorem exchange_moves (kind : BitVec 1) (cmd : Word) (iface : Nat) (payload : List Byte) (s : State) :
    Within Move (exchange kind cmd iface payload) s := by
  unfold exchange sendRequest
  refine within_bind (within_bind (within_update .ioctlId) fun _ t _ => ends_readState_bind (txCtl_moves _ _))
    fun _ t _ => ends_readState_bind (within_polls (awaitResponseFor_moves _ _))

theorem checkIoctlArgs_moves (cmd : Word) (iface n : Nat) (s : State) : Within Move (checkIoctlArgs cmd iface n) s := by
  unfold checkIoctlArgs checkInterface checkCommand
  simp only [bind_assoc]
  exact ends_readState_bind (within_guardArg_bind fun _ => ends_readState_bind (within_guardArg_bind fun _ =>
    ends_readState_bind (ends_guardArg (fun _ => .refl) .refl)))

theorem checkIoctlRoom_moves (n : Nat) (s : State) : Within Move (checkIoctlRoom n) s := by
  unfold checkIoctlRoom
  refine ends_readState_bind ?_
  split
  · exact within_raise _
  · exact within_pure _

/-- Past the check of `iovar_buf` the marshalled form fits it. -/
theorem checkIovarRoom_moves (n : Nat) (s : State) :
    Ends (checkIovarRoom n) s (fun _ t => n ≤ s.cfg.iovarBufSize ∧ Moves s t) fun _ t => Moves s t := by
  unfold checkIovarRoom
  refine ends_readState_bind ?_
  split
  · exact ends_raise .refl
  · next h => exact ends_pure ⟨by omega, .refl⟩

theorem doIoctl_moves (kind : BitVec 1) (cmd : Word) (iface : Nat) (payload : List Byte) (s : State) :
    Within Move (doIoctl kind cmd iface payload) s :=
  within_bind (checkIoctlArgs_moves _ _ _ _) fun _ _ _ => within_bind (checkIoctlRoom_moves _ _) fun _ _ _ =>
    exchange_moves _ _ _ _ _

theorem doIovar_moves (kind : BitVec 1) (cmd : Word) (name : List Byte) (iface : Nat) (value : List Byte)
    (s : State) : Within Move (doIovar kind cmd name iface value) s := by
  unfold doIovar checkName
  refine within_guardArg_bind fun _ => within_bind_of (Q := fun _ _ => _ ≤ s.cfg.iovarBufSize) (checkIovarRoom_moves _ _)
    fun _ t h ht => within_bind (checkIoctlArgs_moves _ _ _ _) fun _ u hu => within_bind (checkIoctlRoom_moves _ _)
    fun _ v hv => within_bind (within_update (.store .iovar _ ?_)) fun _ _ _ => exchange_moves _ _ _ _ _
  change _ ≤ v.cfg.iovarBufSize
  rw [Moves.cfg_eq hv, Moves.cfg_eq hu, Moves.cfg_eq ht]
  exact h

/-! ### The window -/

theorem setWindow_moves (a : Word) (s : State) : Within Move (setWindow a) s := by
  have sel (e : State) (w : Word) (reg : BusAddr) (k : Nat) (u : State) :
      Within Move (writeSelector e w reg k) u :=
    writeSelector_ends (fun _ => .refl) fun _ => memWrite_moves (by decide) fun _ => ⟨Nat.le_refl 1, by simp⟩
  unfold setWindow
  refine ends_readState_bind (within_bind (ends_invalidating (Ends.mono (within_bind (sel _ _ _ _ s)
    fun _ t _ => within_bind (sel _ _ _ _ t) fun _ u _ => sel _ _ _ _ u) (fun _ _ h => h) ?_)) fun _ t _ =>
    within_update (.window a))
  exact fun _ _ h => h.tail .invalid

/-! ### The operations -/

theorem memRead_within {fn : FnCode} {addr : BusAddr} {n : Nat} {s : State} (hfn : fn ≠ 3)
    (hn : s.cfg.wf = true → 1 ≤ n ∧ n ≤ 2047) : Within Move (memRead fn addr n) s :=
  within_polls (Ends.mono (memRead_moves hfn hn) (fun _ _ h => h.2) fun _ _ h => h)

theorem fnOf_ne {fn : Byte} (h : fn.toNat < 3) : fnOf fn ≠ 3 := by
  intro hc
  have : fn.toNat % 4 = 3 := by simpa [fnOf] using congrArg BitVec.toNat hc
  omega

/-- The checks of the transport operations are moves, and say what they have checked. -/
theorem checkRegister_ends (fn : Byte) (addr : Word) (size : Nat) (s : State) :
    Ends (checkRegister fn addr size) s
      (fun _ t => t = s ∧ fnOf fn ≠ 3 ∧ 1 ≤ size ∧ size ≤ 4) (fun _ t => t = s) := by
  unfold checkRegister checkFunction checkAddress checkSize
  refine ends_guardArg_bind (fun h1 => ends_guardArg_bind (fun _ => ends_guardArg (fun h3 => ⟨rfl, ?_, ?_⟩) rfl) rfl) rfl
  · exact fnOf_ne (by simpa using h1)
  · simp only [List.contains_iff_mem, List.mem_cons, List.not_mem_nil, or_false] at h3
    omega

theorem checkBlock_ends (fn : Byte) (addr : Word) (n : Nat) (s : State) :
    Ends (checkBlock fn addr n) s
      (fun _ t => t = s ∧ fnOf fn ≠ 3 ∧ 1 ≤ n ∧ n ≤ s.cfg.busMaxXfer) (fun _ t => t = s) := by
  unfold checkBlock checkFunction checkAddress checkLength
  refine ends_guardArg_bind (fun h1 => ends_guardArg_bind (fun _ => ends_readState_bind
    (ends_guardArg (fun h3 => ⟨rfl, ?_, ?_⟩) rfl)) rfl) rfl
  · exact fnOf_ne (by simpa using h1)
  · simpa using h3

theorem checkBackplaneRegister_ends (addr : Word) (size : Nat) (s : State) :
    Ends (checkBackplaneRegister addr size) s
      (fun _ t => t = s ∧ (size = 1 ∨ size = 2 ∨ size = 4) ∧ addr.toNat % size = 0) (fun _ t => t = s) := by
  unfold checkBackplaneRegister checkSize checkAligned
  refine ends_guardArg_bind (fun h1 => ends_guardArg (fun h2 => ⟨rfl, ?_, ?_⟩) rfl) rfl
  · simpa using h1
  · simpa using h2

theorem checkBackplaneBlock_ends (addr : Word) (n : Nat) (s : State) :
    Ends (checkBackplaneBlock addr n) s
      (fun _ t => t = s ∧ 1 ≤ n ∧ n ≤ s.cfg.bpMaxXfer ∧ (addr &&& 0x7FFF).toNat + n ≤ windowSize) (fun _ t => t = s) := by
  unfold checkBackplaneBlock checkLength checkWindow
  refine ends_readState_bind (ends_guardArg_bind (fun h1 => ends_guardArg (fun h2 => ⟨rfl, ?_⟩) rfl) rfl)
  simp only [Bool.and_eq_true, decide_eq_true_eq] at h1 h2
  exact ⟨h1.1, h1.2, h2⟩

theorem checkCommandWord_ends (autoinc : Bool) (fn : FnCode) (len : LenField) (s : State) :
    Ends (checkCommandWord autoinc fn len) s (fun _ t => t = s ∧ fn ≠ 3 ∧ autoinc = true ∧ len ≠ 0)
      (fun _ t => t = s) := by
  unfold checkCommandWord
  refine ends_guardArg_bind (fun h1 => ends_guardArg_bind (fun h2 => ends_guardArg (fun h3 => ⟨rfl, ?_, h2, ?_⟩) rfl) rfl) rfl
  · simpa using h1
  · simpa using h3

section
variable {s : State}

/-- A check that leaves the state alone, and what follows it. -/
theorem within_check {r : State → State → Prop} {p : Proc α} {f : α → Proc β} {C : Prop}
    (hp : Ends p s (fun _ t => t = s ∧ C) (fun _ t => t = s)) (hf : ∀ a, C → Within r (f a) s) :
    Within r (p >>= f) s :=
  Ends.bind (Ends.mono hp (fun _ _ h => h) fun _ t (h : t = s) => h ▸ .refl) fun a t h => by
    obtain ⟨rfl, hc⟩ := h
    exact hf a hc

theorem within_returning {body : Proc Value} (h : Within Move body s) : Within Move (returning body) s :=
  within_bind h fun _ _ _ => within_pure _

theorem within_returningUnit {body : Proc Unit} (h : Within Move body s) : Within Move (returningUnit body) s :=
  within_bind h fun _ _ _ => within_pure _

theorem runRead_moves (autoinc : Bool) (fn : FnCode) (addr : BusAddr) (len : LenField) :
    Within Move (runRead autoinc fn addr len) s :=
  within_check (checkCommandWord_ends _ _ _ _) fun _ h => within_bind (memRead_within h.1 fun _ => by
    have h3 := h.2.2
    have : len.toNat ≠ 0 := fun hc => h3 (BitVec.eq_of_toNat_eq hc)
    have := len.isLt
    omega) fun _ _ _ => within_pure _

theorem runWrite_moves (autoinc : Bool) (fn : FnCode) (addr : BusAddr) (len : LenField) (data : List Byte) :
    Within Move (runWrite autoinc fn addr len data) s :=
  within_check (checkCommandWord_ends _ _ _ _) fun _ h => memWrite_moves h.1 fun _ => by
    have h3 := h.2.2
    have : len.toNat ≠ 0 := fun hc => h3 (BitVec.eq_of_toNat_eq hc)
    have := len.isLt
    simp only [fit_length]
    omega

theorem receiveFrame_moves (h : SdpcmHeader) (rest : List Byte) : Within Move (receiveFrame h rest) s := by
  unfold receiveFrame
  refine ends_readState_bind ?_
  split
  · exact within_polls (within_bind (within_log _ _) fun _ _ _ => within_raise _)
  · next hl =>
    simp only [rxTooLong, Bool.or_eq_true, decide_eq_true_eq, not_or, Nat.not_lt] at hl
    exact within_bind (within_update (.store .rx _ hl.2)) fun _ t _ =>
      within_bind (within_polls (rxOne_moves _ _)) fun _ _ _ => within_pure _

theorem receiveCdc_moves (c : CdcHeader) (payload : List Byte) : Within Move (receiveCdc c payload) s := by
  unfold receiveCdc
  exact within_pure _

end

/-- Where an operation other than RESET ends: it waits, or it has acquired the lock, made moves, and released the lock
unless it is stuck. -/
theorem exec_moves {i : Instr} {s t : State} (hi : i ≠ .reset) (h : exec i s = .next t) :
    (s.lock = true ∧ t = s) ∨
      (s.lock = false ∧ ∃ u, Moves (s.acquire i) u ∧ (t = u ∨ ∃ r, t = u.release r)) := by
  have key {body : Proc Result} (h : operation i body s = .next t) (hb : Within Move body (s.acquire i)) :
      (s.lock = true ∧ t = s) ∨
        (s.lock = false ∧ ∃ u, Moves (s.acquire i) u ∧ (t = u ∨ ∃ r, t = u.release r)) := by
    cases hl : s.lock
    · refine .inr ⟨rfl, operation_ends (fun t => ∃ u, Moves (s.acquire i) u ∧ (t = u ∨ ∃ r, t = u.release r)) h
        (fun h => by rw [hl] at h; cases h) fun _ => Ends.mono hb (fun r u hu => ⟨u, hu, .inr ⟨r, rfl⟩⟩) fun e u hu => ?_⟩
      cases e with
      | raise e => exact ⟨u, hu, .inr ⟨_, rfl⟩⟩
      | stuck => exact ⟨u, hu, .inl rfl⟩
    · rw [operation_held hl] at h
      exact .inl ⟨rfl, by injection h with h; exact h.symm⟩
  cases i with
  | reset => exact absurd rfl hi
  | rdreg fn addr size =>
    exact key h (within_returning (within_check (checkRegister_ends _ _ _ _) fun _ hc =>
      within_bind (memRead_within hc.1 fun _ => by omega) fun _ _ _ => within_pure _))
  | wrreg fn addr size value =>
    exact key h (within_returningUnit (within_check (checkRegister_ends _ _ _ _) fun _ hc =>
      memWrite_moves hc.1 fun _ => by simp [registerBytes]; omega))
  | rdbytes fn addr n =>
    exact key h (within_returning (within_check (checkBlock_ends _ _ _ _) fun _ hc =>
      within_bind (memRead_within hc.1 fun hw => by have := wf_transfers hw; have := hc.2; simp at this; omega)
        fun _ _ _ => within_pure _))
  | wrbytes fn addr bytes =>
    exact key h (within_returningUnit (within_check (checkBlock_ends _ _ _ _) fun _ hc =>
      memWrite_moves_of hc.1 hc.2.1 hc.2.2))
  | setwin addr => exact key h (within_returningUnit (setWindow_moves _ _))
  | bprd addr size =>
    exact key h (within_returning (within_check (checkBackplaneRegister_ends _ _ _) fun _ hc =>
      within_bind (setWindow_moves _ _) fun _ _ _ => ends_readState_bind
        (within_bind (memRead_within (by decide) fun _ => by omega) fun _ _ _ => within_pure _)))
  | bpwr addr size value =>
    exact key h (within_returningUnit (within_check (checkBackplaneRegister_ends _ _ _) fun _ hc =>
      within_bind (setWindow_moves _ _) fun _ _ _ => ends_readState_bind
        (memWrite_moves (by decide) fun _ => by simp [registerBytes]; omega)))
  | bprdbytes addr n =>
    exact key h (within_returning (within_check (checkBackplaneBlock_ends _ _ _) fun _ hc =>
      within_bind (setWindow_moves _ _) fun _ u hu => within_bind (memRead_within (by decide) fun hw => by
        have hcfg := Moves.cfg_eq hu
        rw [hcfg] at hw
        have := wf_transfers hw
        omega) fun _ _ _ => within_pure _))
  | bpwrbytes addr bytes =>
    exact key h (within_returningUnit (within_check (checkBackplaneBlock_ends _ _ _) fun _ hc =>
      within_bind (setWindow_moves _ _) fun _ u hu => memWrite_moves (by decide) fun hw => by
        have hcfg := Moves.cfg_eq hu
        rw [hcfg] at hw
        have := wf_transfers hw
        omega))
  | hascredit => exact key h (within_returning (ends_readState_bind (within_pure _)))
  | txctl body => exact key h (within_returningUnit (txCtl_moves _ _))
  | txdata iface frame => exact key h (within_returningUnit (txData_moves _ _ _))
  | ioctlset cmd iface data =>
    exact key h (within_returningUnit (within_bind (doIoctl_moves _ _ _ _ _) fun _ _ _ => within_pure _))
  | ioctlget cmd iface buffer =>
    exact key h (within_returning (within_bind (doIoctl_moves _ _ _ _ _) fun _ _ _ => within_pure _))
  | iovarset name iface value =>
    exact key h (within_returningUnit (ends_readState_bind (within_bind (doIovar_moves _ _ _ _ _ _)
      fun _ _ _ => within_pure _)))
  | iovarget name iface =>
    exact key h (within_returning (ends_readState_bind (within_bind (doIovar_moves _ _ _ _ _ _)
      fun _ _ _ => within_pure _)))
  | buspoll =>
    refine key h (within_bind (within_polls (busPoll_moves _)) fun a t _ => ?_)
    cases a <;> exact within_pure _
  | rxone len =>
    exact key h (within_returning (ends_readState_bind (within_guardArg_bind fun _ =>
      within_bind (within_polls (rxOne_moves _ _)) fun _ _ _ => within_pure _)))
  | pollonce =>
    refine key h (within_returning (within_bind (within_polls (pollAndDispatch_moves _)) fun a t _ => ?_))
    rcases a with _ | p | _
    · exact within_pure _
    · cases p <;> exact within_pure _
    · exact within_raise _
  | setcb present => exact key h (within_returningUnit (within_update (.callback present)))
  | cmdRdBus a addr len => exact key h (within_returning (runRead_moves _ _ _ _))
  | cmdRdBp a addr len => exact key h (within_returning (runRead_moves _ _ _ _))
  | cmdRdWlan a addr len => exact key h (within_returning (runRead_moves _ _ _ _))
  | cmdRdReserved a addr len => exact key h (within_returning (runRead_moves _ _ _ _))
  | cmdWrBus a addr len data => exact key h (within_returningUnit (runWrite_moves _ _ _ _ _))
  | cmdWrBp a addr len data => exact key h (within_returningUnit (runWrite_moves _ _ _ _ _))
  | cmdWrWlan a addr len data => exact key h (within_returningUnit (runWrite_moves _ _ _ _ _))
  | cmdWrReserved a addr len data => exact key h (within_returningUnit (runWrite_moves _ _ _ _ _))
  | status word =>
    exact key h (within_returning (within_bind (within_update (.status word)) fun _ _ _ =>
      ends_readState_bind (within_pure _)))
  | cdcGet form payload => exact key h (within_returning (receiveCdc_moves _ _))
  | cdcSet form payload => exact key h (within_returning (receiveCdc_moves _ _))
  | bdc header => exact key h (within_returning (within_pure _))
  | _ => exact key h (within_returning (receiveFrame_moves _ _))

end Sys2Proof.Machine
end

