-- ==== Sys2Proof/Laws/Send.lean ====
section
/-! SUPPORT. Laws/Send.lean: how an instruction that sends a frame runs: its checks, the credit wait, the frame, and for an
ioctl operation the response wait. -/

namespace Sys2Proof.Machine

/-! ### The states before and after a frame is sent -/

@[simp] theorem State.prepared_cfg (s : State) (i : Instr) : (s.prepared i).cfg = s.cfg := by cases i <;> rfl
@[simp] theorem State.prepared_answers (s : State) (i : Instr) : (s.prepared i).answers = s.answers := by
  cases i <;> rfl
@[simp] theorem State.prepared_seq (s : State) (i : Instr) : (s.prepared i).seq = s.seq := by cases i <;> rfl
@[simp] theorem State.prepared_creditMax (s : State) (i : Instr) : (s.prepared i).creditMax = s.creditMax := by
  cases i <;> rfl

/-- An ioctl operation takes the next ID before its credit wait (R234). -/
theorem State.prepared_ioctlId {cfg : Config} {i : Instr} (s : State) (h : ioctlPasses cfg i = true) :
    (s.prepared i).ioctlId = s.ioctlId + 1 := by
  cases i <;> first | rfl | simp [ioctlPasses] at h

@[simp] theorem State.transmitted_cfg (s : State) (st : Word) (i : Instr) : (s.transmitted st i).cfg = s.cfg := by
  cases i <;> rfl
@[simp] theorem State.transmitted_ioctlId (s : State) (st : Word) (i : Instr) :
    (s.transmitted st i).ioctlId = s.ioctlId := by cases i <;> rfl
theorem State.transmitted_at (s : State) (st : Word) (i : Instr) (r : List Answer) (ph : Phase) :
    (s.at r ph).transmitted st i = (s.transmitted st i).at r ph := by cases i <;> rfl
theorem State.transmitted_acquire (s : State) (st : Word) (i j : Instr) :
    (s.acquire j).transmitted st i = (s.transmitted st i).acquire j := by cases i <;> rfl

/-- The end of an operation forgets its acquire. -/
theorem State.acquire_at_release (s : State) (i : Instr) (rest : List Answer) (ph : Phase) (r : Result) :
    ((s.acquire i).at rest ph).release r = s.ends [] rest r := by
  simp [State.at, State.release, State.ends, State.acquire]

/-! ### Running the senders -/

/-- The checks and the send of an ioctl request, around its credit wait (R234, R235). -/
theorem sendRequest_of_wait {kind : BitVec 1} {cmd : Word} {iface : Nat} {payload : List Byte} {s : State}
    (hf : requestFits s.cfg cmd iface payload.length = true) :
    (∀ e t, waitCredit { s with ioctlId := s.ioctlId + 1 } = .error e t →
      sendRequest kind cmd iface payload s = .error e t) ∧
    ∀ t st rest, waitCredit { s with ioctlId := s.ioctlId + 1 } = .ok () t → t.answers = reply t.cfg [] st :: rest →
      sendRequest kind cmd iface payload s =
        .ok () ((t.sentControl (requestBody kind cmd iface (s.ioctlId + 1) payload) st).at rest t.phase.tick) := by
  obtain ⟨-, -, h3, h4⟩ := requestFits_iff.1 hf
  have hb : (requestBody kind cmd iface (s.ioctlId + 1) payload).length = 16 + payload.length := requestBody_length ..
  have h3' : 12 + (requestBody kind cmd iface (s.ioctlId + 1) payload).length ≤ s.cfg.busMaxXfer := by omega
  have h4' : roundup4 (12 + (requestBody kind cmd iface (s.ioctlId + 1) payload).length) ≤ s.cfg.ioctlBufSize := by
    rw [hb, show 12 + (16 + payload.length) = 28 + payload.length by omega]; exact h4
  refine ⟨fun e t hw => ?_, fun t st rest hw h => ?_⟩
  · simp only [sendRequest, update_bind, readState_bind, requestBody_eq, txCtl]
    rw [bind_run_ok (checkControlSize_pass (s := { s with ioctlId := s.ioctlId + 1 }) (by omega) h4' h3'),
      bind_run_error hw]
  · simp only [sendRequest, update_bind, readState_bind, requestBody_eq]
    exact txCtl_sends hw (by omega) h4' h3' h

/-- The body of an ioctl operation whose operands pass its checks is the exchange, from the state in which an iovar is
marshalled. -/
theorem doIoctl_run {kind : BitVec 1} {cmd : Word} {iface : Nat} {payload : List Byte} {s : State}
    (hf : requestFits s.cfg cmd iface payload.length = true) :
    doIoctl kind cmd iface payload s = exchange kind cmd iface payload s := by
  simp only [doIoctl]
  rw [bind_run_ok (checkIoctlArgs_pass hf), bind_run_ok (checkIoctlRoom_pass hf)]

@[inherit_doc doIoctl_run]
theorem doIovar_run {kind : BitVec 1} {cmd : Word} {iface : Nat} {name value : List Byte} {s : State}
    (hn : nameFits name = true) (hf : requestFits s.cfg cmd iface (marshalIovar name value).length = true)
    (hb : (marshalIovar name value).length ≤ s.cfg.iovarBufSize) :
    doIovar kind cmd name iface value s =
      exchange kind cmd iface (marshalIovar name value) (s.storeBuffer .iovar (marshalIovar name value)) := by
  simp only [doIovar, checkName]
  rw [guardArg_pass (by exact hn), bind_run_ok (checkIovarRoom_pass hb), bind_run_ok (checkIoctlArgs_pass hf),
    bind_run_ok (checkIoctlRoom_pass hf)]
  rfl

theorem iovarPayload_eq (name value : List Byte) : marshalIovar name value = iovarPayload name value := by
  simp [marshalIovar, iovarPayload]

/-- The request of an ioctl operation. -/
theorem ioctl_run {i : Instr} {s : State} (hl : s.lock = false) (hf : ioctlPasses s.cfg i = true) :
    ∃ kind cmd iface payload, ∃ u : State,
      exec i s = .next (finish ((exchange kind cmd iface payload >>= fun b => pure (Result.ok (ioctlAnswer b i))) u)) ∧
      u.cfg = s.cfg ∧ requestFits s.cfg cmd iface payload.length = true ∧
      ({ u with ioctlId := u.ioctlId + 1 } : State) = (s.prepared i).acquire i ∧
      ∀ (t : State) (st : Word), t.cfg = s.cfg → t.ioctlId = s.ioctlId + 1 →
        t.sentControl (requestBody kind cmd iface (u.ioctlId + 1) payload) st = t.transmitted st i := by
  have hv {m : List Byte} {cmd name iface}
      (h : (nameFits name && requestFits s.cfg cmd iface m.length && decide (m.length ≤ s.cfg.iovarBufSize)) = true) :
      nameFits name = true ∧ requestFits s.cfg cmd iface m.length = true ∧ m.length ≤ s.cfg.iovarBufSize := by
    simp only [Bool.and_eq_true, decide_eq_true_eq] at h
    exact ⟨h.1.1, h.1.2, h.2⟩
  cases i
  case ioctlset cmd iface data =>
    refine ⟨kindSet, cmd, iface, data, s.acquire (.ioctlset cmd iface data), ?_, rfl, hf, rfl, ?_⟩
    · simp only [exec, execIoctlset, returningUnit, bind_assoc]
      rw [operation_free hl, bind_run, doIoctl_run (s := s.acquire _) hf, bind_run]
      rfl
    · intro t st _ hi; simp only [State.transmitted, hi]; rfl
  case ioctlget cmd iface data =>
    refine ⟨kindGet, cmd, iface, data, s.acquire (.ioctlget cmd iface data), ?_, rfl, hf, rfl, ?_⟩
    · simp only [exec, execIoctlget, returning, bind_assoc]
      rw [operation_free hl, bind_run, doIoctl_run (s := s.acquire _) hf, bind_run]
      rfl
    · intro t st _ hi; simp only [State.transmitted, hi]; rfl
  case iovarset name iface value =>
    obtain ⟨h1, h2, h3⟩ := hv (m := iovarPayload name value) hf
    refine ⟨kindSet, s.cfg.wlcSetVar, iface, iovarPayload name value,
      (s.acquire (.iovarset name iface value)).storeBuffer .iovar (iovarPayload name value), ?_, rfl, h2, rfl, ?_⟩
    · simp only [exec, execIovarset, returningUnit, bind_assoc]
      rw [← iovarPayload_eq] at h2 h3 ⊢
      rw [operation_free hl, readState_bind, bind_run, doIovar_run (s := s.acquire (.iovarset name iface value))
        (cmd := (s.acquire (.iovarset name iface value)).cfg.wlcSetVar) h1 h2 h3, bind_run]
      rfl
    · intro t st hc hi; simp only [State.transmitted, hi, hc]; rfl
  case iovarget name iface =>
    obtain ⟨h1, h2, h3⟩ := hv (m := iovarPayload name []) hf
    refine ⟨kindGet, s.cfg.wlcGetVar, iface, iovarPayload name [],
      (s.acquire (.iovarget name iface)).storeBuffer .iovar (iovarPayload name []), ?_, rfl, h2, rfl, ?_⟩
    · simp only [exec, execIovarget, returning, bind_assoc]
      rw [← iovarPayload_eq] at h2 h3 ⊢
      rw [operation_free hl, readState_bind, bind_run, doIovar_run (s := s.acquire (.iovarget name iface))
        (cmd := (s.acquire (.iovarget name iface)).cfg.wlcGetVar) h1 h2 h3, bind_run]
      rfl
    · intro t st hc hi; simp only [State.transmitted, hi, hc]; rfl
  all_goals exact absurd hf (by simp [ioctlPasses])

/-- An ioctl operation whose operands pass its checks: how it ends if its credit wait stops, and what is left to do once
its request is sent (R234 to R238). -/
theorem exec_ioctl {i : Instr} {s : State} (hl : s.lock = false) (hf : ioctlPasses s.cfg i = true) :
    (∀ e t, waitCredit ((s.prepared i).acquire i) = .error e t → exec i s = .next (finish (.error e t))) ∧
    ∀ t st rest, waitCredit ((s.prepared i).acquire i) = .ok () t → t.cfg = s.cfg → t.ioctlId = s.ioctlId + 1 →
      t.answers = reply t.cfg [] st :: rest →
      exec i s = .next (finish ((awaitResponseFor s.cfg.ioctlRetries >>= fun b => pure (Result.ok (ioctlAnswer b i)))
        ((t.transmitted st i).at rest t.phase.tick))) := by
  obtain ⟨kind, cmd, iface, payload, u, hex, hcfg, hfit, hu, ht⟩ := ioctl_run hl hf
  rw [← hcfg] at hfit
  obtain ⟨h1, h2⟩ := sendRequest_of_wait (kind := kind) hfit
  rw [hu] at h1 h2
  refine ⟨fun e t hw => ?_, fun t st rest hw hc hi h => ?_⟩
  · rw [hex]
    simp only [exchange, bind_assoc]
    rw [bind_run_error (h1 e t hw)]
  · rw [hex]
    simp only [exchange, bind_assoc]
    rw [bind_run_ok (h2 t st rest hw h), readState_bind, ht t st hc hi]
    have hr : ((t.transmitted st i).at rest t.phase.tick).cfg.ioctlRetries = s.cfg.ioctlRetries := by
      rw [← hc, State.at_cfg]
      cases i <;> rfl
    rw [hr]

/-- The same of TXCTL and TXDATA (R211, R212). -/
theorem exec_transmit {i : Instr} {s : State} (hl : s.lock = false) (hf : sendPasses s.cfg i = true)
    (hi : (∃ body, i = .txctl body) ∨ ∃ iface frame, i = .txdata iface frame) :
    (∀ e t, waitCredit ((s.prepared i).acquire i) = .error e t → exec i s = .next (finish (.error e t))) ∧
    ∀ t st rest, waitCredit ((s.prepared i).acquire i) = .ok () t → t.cfg = s.cfg →
      t.answers = reply t.cfg [] st :: rest →
      exec i s = .next (finish (.ok (.ok .unit) ((t.transmitted st i).at rest t.phase.tick))) := by
  obtain ⟨body, rfl⟩ | ⟨iface, frame, rfl⟩ := hi
  · simp only [sendPasses, Bool.and_eq_true, decide_eq_true_eq] at hf
    obtain ⟨⟨h1, h2⟩, h3⟩ := hf
    refine ⟨fun e t hw => ?_, fun t st rest hw hc h => ?_⟩
    · change execTxctl _ _ = _
      change waitCredit (s.acquire _) = _ at hw
      simp only [execTxctl, returningUnit, txCtl, bind_assoc]
      rw [operation_free hl, bind_run_ok (checkControlSize_pass (s := s.acquire _) h1 h2 h3), bind_run_error hw]
    · change execTxctl _ _ = _
      simp only [execTxctl, returningUnit]
      rw [operation_free hl, bind_run_ok (txCtl_sends (s := s.acquire _) hw h1 h2 h3 h)]
      rfl
  · simp only [sendPasses, Bool.and_eq_true, decide_eq_true_eq] at hf
    obtain ⟨⟨h1, h2⟩, h3⟩ := hf
    refine ⟨fun e t hw => ?_, fun t st rest hw hc h => ?_⟩
    · change execTxdata _ _ _ = _
      change waitCredit (s.acquire _) = _ at hw
      have hn : dataTotal frame = 18 + frame.length := by simp only [dataTotal, sdpcmLen, dataPad, bdcLen]
      simp only [execTxdata, returningUnit, txData, checkInterface, bind_assoc]
      rw [operation_free hl, readState_bind, readState_bind, guardArg_pass (by rw [decide_eq_true_eq]; exact h1),
        guardArg_pass (by rw [bne_iff_ne]; omega), guardArg_pass (by rw [decide_eq_true_eq, hn]; exact h3),
        bind_run_error hw]
    · change execTxdata _ _ _ = _
      simp only [execTxdata, returningUnit]
      rw [operation_free hl, bind_run_ok (txData_sends (s := s.acquire _) hw h1 h2 h3 hc h)]
      rfl

/-- An instruction that sends is TXCTL, TXDATA or an ioctl operation. -/
theorem sendPasses_cases {cfg : Config} {i : Instr} (h : sendPasses cfg i = true) :
    ((∃ body, i = .txctl body) ∨ ∃ iface frame, i = .txdata iface frame) ∨ ioctlPasses cfg i = true := by
  cases i <;> simp_all [sendPasses]

/-- A credit wait that stops ends the instruction (R204, R305). -/
theorem exec_waitCredit_error {i : Instr} {s t : State} {e : Stop} (hl : s.lock = false)
    (hf : sendPasses s.cfg i = true) (hw : waitCredit ((s.prepared i).acquire i) = .error e t) :
    exec i s = .next (finish (.error e t)) := by
  rcases sendPasses_cases hf with hi | hi
  · exact (exec_transmit hl hf hi).1 e t hw
  · exact (exec_ioctl hl hi).1 e t hw

end Sys2Proof.Machine
end

