-- ==== Sys2Proof/Laws/Step.lean ====
section
/-! SUPPORT. Laws/Step.lean: all that a step can do, said once. -/

namespace Sys2Proof.Machine

variable {s t : State}

/-- A submission the decoder refuses with an argument of its own is taken and answered (R140, R142). -/
theorem step_refused {r : Request} {rest : List Request} {e : DecodeError} {which : Argument} (hc : s.cfg.wf = true)
    (hl : s.lock = false) (hr : s.requests = r :: rest) (hd : decode s.cfg.wireOrder r = .error e)
    (he : DecodeError.argument e = some which) :
    step s = .next ({ s with requests := rest }.release (.err (.invalidArgument which))) := by
  simp [step, fetch, refuseSubmission, hc, hl, hr, hd, he]

/-- A step that answers a next state waits, refuses the oldest submission, or runs the instruction it decodes to. -/
theorem step_cases (h : step s = .next t) :
    s.cfg.wf = true ∧
      (t = s ∨ s.lock = false ∧ ∃ r rest, s.requests = r :: rest ∧
        ((∃ which, t = { s with requests := rest }.release (.err (.invalidArgument which))) ∨
          ∃ i, decode s.cfg.wireOrder r = .ok i ∧ exec i { s with requests := rest } = .next t)) := by
  by_cases hc : s.cfg.wf = true
  swap
  · simp [step, fetch, hc] at h
  refine ⟨hc, ?_⟩
  by_cases hl : s.lock = true
  · exact .inl (by simpa [step, fetch, hc, hl] using h.symm)
  rw [Bool.not_eq_true] at hl
  rcases hr : s.requests with _ | ⟨r, rest⟩
  · exact .inl (by simpa [step, fetch, hc, hl, hr] using h.symm)
  refine .inr ⟨hl, r, rest, rfl, ?_⟩
  rcases hd : decode s.cfg.wireOrder r with e | i
  · rcases he : DecodeError.argument e with _ | which
    · simp [step, fetch, hc, hl, hr, hd, he] at h
    · exact .inl ⟨which, (Host.Outcome.next.inj ((step_refused hc hl hr hd he).symm.trans h)).symm⟩
  · exact .inr ⟨i, rfl, by simpa [step, fetch, hc, hl, hr, hd] using h⟩

end Sys2Proof.Machine
end

