-- ==== Sys2Proof/Machine/Results.lean ====
section
/-! DEFINITION. Machine/Results.lean: the codes and classes of results (spec/60_exceptions.md R300) and the three-way tag of
the design notes (spec/00_scope.md R10; spec/60_exceptions.md R302). -/

namespace Sys2Proof.Machine

/-- The sixteen names of R300. -/
inductive ResultCode where
  | ok
  | nothing
  | dataUnavailable
  | f2NotReady
  | busFailure
  | corruptHeader
  | wrongId
  | malformedBdc
  | shortPacket
  | unknownChannel
  | eventInvalid
  | creditTimeout
  | ioctlPollTimeout
  | chipError
  | invalidArgument
  | bufferTooSmall
deriving DecidableEq, Repr

/-- The numbers of R300 (decision D42). -/
def ResultCode.number : ResultCode → Nat
  | .ok => 0
  | .nothing => 1
  | .dataUnavailable => 2
  | .f2NotReady => 3
  | .busFailure => 4
  | .corruptHeader => 5
  | .wrongId => 6
  | .malformedBdc => 7
  | .shortPacket => 8
  | .unknownChannel => 9
  | .eventInvalid => 10
  | .creditTimeout => 11
  | .ioctlPollTimeout => 12
  | .chipError => 13
  | .invalidArgument => 14
  | .bufferTooSmall => 15

/-- The class letters of R300. -/
inductive ResultClass where
  | success
  | transient
  | corruption
  | resource
  | chip
  | programming
  | bus
deriving DecidableEq, Repr

/-- The class of each code (R300). -/
def ResultCode.classOf : ResultCode → ResultClass
  | .ok => .success
  | .nothing | .dataUnavailable | .f2NotReady => .transient
  | .busFailure => .bus
  | .corruptHeader | .wrongId | .malformedBdc | .shortPacket | .unknownChannel | .eventInvalid => .corruption
  | .creditTimeout | .ioctlPollTimeout => .resource
  | .chipError => .chip
  | .invalidArgument | .bufferTooSmall => .programming

/-- The code of an error (R300). -/
def Err.code : Err → ResultCode
  | .dataUnavailable => .dataUnavailable
  | .busFailure _ => .busFailure
  | .corruptHeader => .corruptHeader
  | .malformedBdc => .malformedBdc
  | .shortPacket => .shortPacket
  | .unknownChannel _ => .unknownChannel
  | .creditTimeout => .creditTimeout
  | .ioctlPollTimeout => .ioctlPollTimeout
  | .chipError _ => .chipError
  | .invalidArgument _ => .invalidArgument
  | .bufferTooSmall => .bufferTooSmall

/-- The code of a transient outcome (R263, R300). -/
def Transient.code : Transient → ResultCode
  | .nothing => .nothing
  | .dataUnavailable => .dataUnavailable
  | .f2NotReady => .f2NotReady

/-- The code of a result (R300); a dropped event carries code 10 in an `Ok` result. -/
def Result.code : Result → ResultCode
  | .ok (.packet (.dropped .eventInvalid)) => .eventInvalid
  | .ok _ => .ok
  | .noPacket why => why.code
  | .err e => e.code

/-- The tagged result of the design notes (R10). -/
inductive Tag where
  | ok
  | noPacketAvailable
  | recoverable
  | fatal
deriving DecidableEq, Repr

/-- `Err` of class F is fatal, of any other class recoverable (R302). -/
def Result.tag : Result → Tag
  | .ok _ => .ok
  | .noPacket _ => .noPacketAvailable
  | .err e => if e.code.classOf = .programming then .fatal else .recoverable

end Sys2Proof.Machine
end

