-- ==== Sys2Proof/Tests/Slice0.lean ====
section
/-! SUPPORT. Tests/Slice0.lean: small tests, their expected values taken from spec/95_test_vectors.md (T, X and S numbers, and
its Programs) and from the layouts of spec/30_encoding.md, and a witness for the hypotheses of every statement. -/

namespace Sys2Proof.Tests

open Sys2Proof.Machine

/-- The power-on state with the answers the chip will give: data and status word of each transaction. -/
def answered (a : List (List Byte × Word)) : State :=
  { State.reset with answers := a.map fun p => reply Config.suggested p.1 p.2 }

/-- The result and the port events of one instruction. -/
def ran (i : Instr) (s : State) : Option Result × List PortEvent :=
  match exec i s with
  | .next t => (t.result, t.trace)
  | _ => (none, [])

/-- The result alone. -/
def resultOf (i : Instr) (s : State) : Option Result := (ran i s).1

/-- A value of the state after one instruction. -/
def after {α : Type} (f : State → α) (i : Instr) (s : State) : Option α :=
  match exec i s with
  | .next t => some (f t)
  | _ => none

/-- What the decoder reads from the bytes of a submission, in little-endian wire order. -/
def read (f : Form) (b : List Byte) : Option Instr :=
  match decode .le ⟨f, b⟩ with
  | .ok i => some i
  | .error _ => none

/-- A status word that is ready and announces a packet of `n` bytes (R105, suggested positions). -/
def ready (n : Nat) : Word := BitVec.ofNat 32 (0x120 + n * 512)

/-- The answers to a poll that finds the packet `b` (Programs 2 and 3). -/
def brings (b : List Byte) : Poll := ⟨[0x20, 0, 0, 0], ready b.length, padWords b, 0x20⟩

/-- The answer to a poll that finds nothing (Program 4). -/
def silent : List Byte × Word := ([0, 0, 0, 0], 0x20)

/-- The power-on state and what the chip answers next. -/
def told (a : List Answer) : State := { State.reset with answers := a }

/-- The power-on state with a packet in `rx_buf` and `credit_max` 3 (section 2.8). -/
def holding (b : List Byte) : State := { State.reset with rxBuf := cellsFrom 0 b, creditMax := 3 }

/-! ### Decoding: words written out from spec/30_encoding.md -/

theorem test_decode_rdreg : read .hostOp [0x01, 0x01, 0xFF, 0xFF, 0x01, 0x00, 0x01] = some (.rdreg 1 0x1FFFF 1) := by decide

theorem test_decode_wrreg : read .hostOp [0x02, 0x00, 0x02, 0x00, 0x00, 0x00, 0x02, 0x78, 0x56, 0x34, 0x12] = some (.wrreg 0 2 2 0x12345678) := by decide

theorem test_decode_rdbytes : read .hostOp [0x03, 0x02, 0x00, 0x00, 0x00, 0x00, 0xFF, 0x07] = some (.rdbytes 2 0 2047) := by decide

theorem test_decode_wrbytes : read .hostOp [0x04, 0x02, 0x00, 0x00, 0x00, 0x00, 0x03, 0x00, 0x0A, 0x0B, 0x0C] = some (.wrbytes 2 0 [0x0A, 0x0B, 0x0C]) := by decide

theorem test_decode_setwin : read .hostOp [0x10, 0x00, 0x80, 0x10, 0x18] = some (.setwin 0x18108000) := by decide

theorem test_decode_bprd : read .hostOp [0x11, 0x08, 0x04, 0x00, 0x18, 0x01] = some (.bprd 0x18000408 1) := by decide

theorem test_decode_bpwr : read .hostOp [0x12, 0x64, 0x06, 0x00, 0x18, 0x04, 0x01, 0x00, 0x00, 0x00] = some (.bpwr 0x18000664 4 1) := by decide

theorem test_decode_bprdbytes : read .hostOp [0x13, 0xF0, 0x7F, 0x00, 0x00, 0x10, 0x00] = some (.bprdbytes 0x7FF0 16) := by decide

theorem test_decode_bpwrbytes : read .hostOp [0x14, 0x40, 0x00, 0x00, 0x00, 0x02, 0x00, 0x40, 0x41] = some (.bpwrbytes 0x40 [0x40, 0x41]) := by decide

theorem test_decode_hascredit : read .hostOp [0x20] = some (.hascredit) := by decide

theorem test_decode_txctl : read .hostOp [0x21, 0x02, 0x00, 0xAA, 0xBB] = some (.txctl [0xAA, 0xBB]) := by decide

theorem test_decode_txdata : read .hostOp [0x22, 0x01, 0x01, 0x00, 0xAA] = some (.txdata 1 [0xAA]) := by decide

theorem test_decode_ioctlset : read .hostOp [0x30, 0x02, 0x00, 0x00, 0x00, 0x00, 0x00, 0x00] = some (.ioctlset 2 0 []) := by decide

theorem test_decode_ioctlget : read .hostOp [0x31, 0x01, 0x00, 0x00, 0x00, 0x02, 0x01, 0x00, 0x55] = some (.ioctlget 1 2 [0x55]) := by decide

theorem test_decode_iovarset : read .hostOp [0x32, 0x02, 0x00, 0x61, 0x6D, 0x01, 0x01, 0x00, 0x08] = some (.iovarset [0x61, 0x6D] 1 [8]) := by decide

theorem test_decode_iovarget : read .hostOp [0x33, 0x03, 0x00, 0x63, 0x75, 0x72, 0x00] = some (.iovarget [0x63, 0x75, 0x72] 0) := by decide

theorem test_decode_buspoll : read .hostOp [0x40] = some (.buspoll) := by decide

theorem test_decode_rxone : read .hostOp [0x41, 0x1C, 0x00] = some (.rxone 28) := by decide

theorem test_decode_pollonce : read .hostOp [0x42] = some (.pollonce) := by decide

theorem test_decode_setcb : read .hostOp [0x43, 0x01] = some (.setcb true) ∧ read .hostOp [0x43, 0x00] = some (.setcb false) ∧
    read .hostOp [0x43, 0x02] = none := by decide

theorem test_decode_reset : read .hostOp [0x50] = some (.reset) := by decide

/-- Section 2.1: the command words of the table and of the decoding line. -/
theorem test_decode_cmdRdBus : read .command [0x02, 0x20, 0x00, 0x40] = some (.cmdRdBus true 4 2) := by decide

theorem test_decode_cmdRdBp : read .command [0x01, 0xF8, 0xFF, 0x5F] = some (.cmdRdBp true 0x1FFFF 1) := by decide

theorem test_decode_cmdRdWlan : read .command [0x40, 0x00, 0x00, 0x60] = some (.cmdRdWlan true 0 64) := by decide

theorem test_decode_cmdWrBus : read .command [0x04, 0x00, 0x00, 0xC0, 0xB1, 0x04, 0x03, 0x00] = some (.cmdWrBus true 0 4 [0xB1, 4, 3, 0]) := by decide

theorem test_decode_cmdWrBp : read .command [0x01, 0x60, 0x00, 0xD8, 0x18, 0x00, 0x00, 0x00] = some (.cmdWrBp true 0x1000C 1 [0x18]) := by decide

theorem test_decode_cmdWrWlan : read .command [0x05, 0x00, 0x00, 0xE0, 0x01, 0x02, 0x03, 0x04, 0x05, 0x00, 0x00, 0x00] = some (.cmdWrWlan true 0 5 [1, 2, 3, 4, 5]) := by decide

theorem test_decode_cmdRdReserved : read .command [0xFF, 0xFF, 0xFF, 0x7F] = some (.cmdRdReserved true 0x1FFFF 2047) := by decide

theorem test_decode_cmdWrReserved : read .command [0x01, 0x08, 0x00, 0xB0, 0xAA, 0x00, 0x00, 0x00] = some (.cmdWrReserved false 1 1 [0xAA]) := by decide

/-- The same word in the other wire order (section 2.1). -/
theorem test_decode_wireOrder : decode .be ⟨.command, [0x54, 0x00, 0x00, 0x04]⟩ = .ok (.cmdRdBp true 0x8000 4) ∧
    encode .be (.cmdRdBp true 0x8000 4) = ⟨.command, [0x54, 0x00, 0x00, 0x04]⟩ := by decide

theorem test_decode_status : read .status [0x20, 0x41, 0x00, 0x00] = some (.status 0x4120) := by decide

/-- Section 2.3: the header with every field non-zero, on each channel. -/
theorem test_decode_sdpcmControl : read .sdpcm [0x34, 0x12, 0xCB, 0xED, 0xAB, 0xF0, 0x11, 0x0E, 0x22, 0x33, 0x44, 0x55, 0x99] = some (.sdpcmControl ⟨0x1234, 0xEDCB, 0xAB, 15, 0x11, 0x0E, 0x22, 0x33, 0x5544⟩ [0x99]) := by decide

theorem test_decode_sdpcmEvent : read .sdpcm [0x34, 0x12, 0xCB, 0xED, 0xAB, 0xF1, 0x11, 0x0E, 0x22, 0x33, 0x44, 0x55, 0x99] = some (.sdpcmEvent ⟨0x1234, 0xEDCB, 0xAB, 15, 0x11, 0x0E, 0x22, 0x33, 0x5544⟩ [0x99]) := by decide

theorem test_decode_sdpcmData : read .sdpcm [0x34, 0x12, 0xCB, 0xED, 0xAB, 0xF2, 0x11, 0x0E, 0x22, 0x33, 0x44, 0x55, 0x99] = some (.sdpcmData ⟨0x1234, 0xEDCB, 0xAB, 15, 0x11, 0x0E, 0x22, 0x33, 0x5544⟩ [0x99]) := by decide

theorem test_decode_sdpcmUnknown3 : read .sdpcm [0x34, 0x12, 0xCB, 0xED, 0xAB, 0xF3, 0x11, 0x0E, 0x22, 0x33, 0x44, 0x55, 0x99] = some (.sdpcmUnknown3 ⟨0x1234, 0xEDCB, 0xAB, 15, 0x11, 0x0E, 0x22, 0x33, 0x5544⟩ [0x99]) := by decide

theorem test_decode_sdpcmUnknown4 : read .sdpcm [0x34, 0x12, 0xCB, 0xED, 0xAB, 0xF4, 0x11, 0x0E, 0x22, 0x33, 0x44, 0x55, 0x99] = some (.sdpcmUnknown4 ⟨0x1234, 0xEDCB, 0xAB, 15, 0x11, 0x0E, 0x22, 0x33, 0x5544⟩ [0x99]) := by decide

theorem test_decode_sdpcmUnknown5 : read .sdpcm [0x34, 0x12, 0xCB, 0xED, 0xAB, 0xF5, 0x11, 0x0E, 0x22, 0x33, 0x44, 0x55, 0x99] = some (.sdpcmUnknown5 ⟨0x1234, 0xEDCB, 0xAB, 15, 0x11, 0x0E, 0x22, 0x33, 0x5544⟩ [0x99]) := by decide

theorem test_decode_sdpcmUnknown6 : read .sdpcm [0x34, 0x12, 0xCB, 0xED, 0xAB, 0xF6, 0x11, 0x0E, 0x22, 0x33, 0x44, 0x55, 0x99] = some (.sdpcmUnknown6 ⟨0x1234, 0xEDCB, 0xAB, 15, 0x11, 0x0E, 0x22, 0x33, 0x5544⟩ [0x99]) := by decide

theorem test_decode_sdpcmUnknown7 : read .sdpcm [0x34, 0x12, 0xCB, 0xED, 0xAB, 0xF7, 0x11, 0x0E, 0x22, 0x33, 0x44, 0x55, 0x99] = some (.sdpcmUnknown7 ⟨0x1234, 0xEDCB, 0xAB, 15, 0x11, 0x0E, 0x22, 0x33, 0x5544⟩ [0x99]) := by decide

theorem test_decode_sdpcmUnknown8 : read .sdpcm [0x34, 0x12, 0xCB, 0xED, 0xAB, 0xF8, 0x11, 0x0E, 0x22, 0x33, 0x44, 0x55, 0x99] = some (.sdpcmUnknown8 ⟨0x1234, 0xEDCB, 0xAB, 15, 0x11, 0x0E, 0x22, 0x33, 0x5544⟩ [0x99]) := by decide

theorem test_decode_sdpcmUnknown9 : read .sdpcm [0x34, 0x12, 0xCB, 0xED, 0xAB, 0xF9, 0x11, 0x0E, 0x22, 0x33, 0x44, 0x55, 0x99] = some (.sdpcmUnknown9 ⟨0x1234, 0xEDCB, 0xAB, 15, 0x11, 0x0E, 0x22, 0x33, 0x5544⟩ [0x99]) := by decide

theorem test_decode_sdpcmUnknown10 : read .sdpcm [0x34, 0x12, 0xCB, 0xED, 0xAB, 0xFA, 0x11, 0x0E, 0x22, 0x33, 0x44, 0x55, 0x99] = some (.sdpcmUnknown10 ⟨0x1234, 0xEDCB, 0xAB, 15, 0x11, 0x0E, 0x22, 0x33, 0x5544⟩ [0x99]) := by decide

theorem test_decode_sdpcmUnknown11 : read .sdpcm [0x34, 0x12, 0xCB, 0xED, 0xAB, 0xFB, 0x11, 0x0E, 0x22, 0x33, 0x44, 0x55, 0x99] = some (.sdpcmUnknown11 ⟨0x1234, 0xEDCB, 0xAB, 15, 0x11, 0x0E, 0x22, 0x33, 0x5544⟩ [0x99]) := by decide

theorem test_decode_sdpcmUnknown12 : read .sdpcm [0x34, 0x12, 0xCB, 0xED, 0xAB, 0xFC, 0x11, 0x0E, 0x22, 0x33, 0x44, 0x55, 0x99] = some (.sdpcmUnknown12 ⟨0x1234, 0xEDCB, 0xAB, 15, 0x11, 0x0E, 0x22, 0x33, 0x5544⟩ [0x99]) := by decide

theorem test_decode_sdpcmUnknown13 : read .sdpcm [0x34, 0x12, 0xCB, 0xED, 0xAB, 0xFD, 0x11, 0x0E, 0x22, 0x33, 0x44, 0x55, 0x99] = some (.sdpcmUnknown13 ⟨0x1234, 0xEDCB, 0xAB, 15, 0x11, 0x0E, 0x22, 0x33, 0x5544⟩ [0x99]) := by decide

theorem test_decode_sdpcmUnknown14 : read .sdpcm [0x34, 0x12, 0xCB, 0xED, 0xAB, 0xFE, 0x11, 0x0E, 0x22, 0x33, 0x44, 0x55, 0x99] = some (.sdpcmUnknown14 ⟨0x1234, 0xEDCB, 0xAB, 15, 0x11, 0x0E, 0x22, 0x33, 0x5544⟩ [0x99]) := by decide

theorem test_decode_sdpcmUnknown15 : read .sdpcm [0x34, 0x12, 0xCB, 0xED, 0xAB, 0xFF, 0x11, 0x0E, 0x22, 0x33, 0x44, 0x55, 0x99] = some (.sdpcmUnknown15 ⟨0x1234, 0xEDCB, 0xAB, 15, 0x11, 0x0E, 0x22, 0x33, 0x5544⟩ [0x99]) := by decide

theorem test_decode_cdcGet : read .cdc [0x06, 0x01, 0x00, 0x00, 0x04, 0x00, 0x00, 0x00, 0x00, 0x00, 0x09, 0x00, 0xFD, 0xFF, 0xFF, 0xFF, 0x01] = some (.cdcGet ⟨0x106, 4, 0, 0, 0, 9, 0xFFFFFFFD⟩ [1]) := by decide

theorem test_decode_cdcSet : read .cdc [0x07, 0x01, 0x00, 0x00, 0x13, 0x00, 0x00, 0x00, 0x02, 0x10, 0x34, 0x12, 0x00, 0x00, 0x00, 0x00] = some (.cdcSet ⟨0x107, 19, 0, 0, 1, 0x1234, 0⟩ []) := by decide

theorem test_decode_bdc : read .bdc [0x20, 0x00, 0x01, 0x03] = some (.bdc ⟨0x20, 0, 1, 3⟩) := by decide

theorem test_decode_truncated : read .hostOp [] = none ∧ read .hostOp [0x10, 0, 0, 0] = none ∧ read .command [1, 2, 3] = none ∧
    read .hostOp [0x04, 2, 0, 0, 0, 0, 2, 0, 1] = none := by decide

theorem test_decode_unassigned : decode .le ⟨.hostOp, [0x51]⟩ = .error (.unassigned 0x51) := by decide

/-- The opcode table's own numbering: bit 0 is the lowest bit of the first byte. -/
theorem test_tableWords : decodeTableWord 8 0x11 = some (.bprd 0 0) ∧
    decodeTableWord 32 0xD0000001 = some (.cmdWrBp true 0 1 [0]) ∧
    decodeTableWord 8 0x0F = some (.sdpcmUnknown15 ⟨0, 0, 0, 0, 0, 0, 0, 0, 0⟩ []) := by decide

/-! ### Encoding -/

theorem test_encode_cdcFlags : mkflags 1 2 0xFFFF = 0xFFFF2002 ∧ mkflags 0 15 0 = 0x0000F000 ∧
    le32 (mkflags 1 1 0x1234) = [0x02, 0x10, 0x34, 0x12] := by decide

theorem test_encode_sdpcm : encSdpcm (txHeader 2 2 0x4E 14) =
    [0x4E, 0x00, 0xB1, 0xFF, 0x02, 0x02, 0x00, 0x0E, 0x00, 0x00, 0x00, 0x00] := by decide

/-- Twelve zero bytes are no valid header (section 2.3). -/
theorem test_zero_header_invalid : sdpcmValid (decSdpcm (zeros 12)) = false := by decide

/-- Section 2.3, "ampdu_ba_wsize". -/
theorem test_marshal : marshalIovar [0x61, 0x6D, 0x70] [8, 0, 0, 0] = [0x61, 0x6D, 0x70, 0, 8, 0, 0, 0] := by decide

theorem test_assembly : assembly (.rdreg 1 0x8000 4) = some "RDREG BP, 0x08000, 4" ∧
    assembly (.setwin 0x18000000) = some "SETWIN 0x18000000" ∧
    assembly (.wrbytes 2 0 [1, 0xAB]) = some "WRBYTES WLAN, 0x00000, [01 AB]" := by decide

/-- R142, decision D55. -/
theorem test_frameAndSend : frameAndSend 0 1 [7] = some (.txctl [7]) ∧ frameAndSend 2 1 [7] = some (.txdata 1 [7]) ∧
    frameAndSend 1 1 [7] = none := by decide

/-- R142: the names as submissions (log 28), and a channel that is not transmitted on. -/
theorem test_decode_pseudo : read .pseudo [0, 0, 5, 1, 0, 7] = some (.txctl [7]) ∧
    read .pseudo [0, 2, 1, 1, 0, 7] = some (.txdata 1 [7]) ∧ read .pseudo [1, 1, 0, 7] = some (.txdata 0 [7]) ∧
    read .pseudo [2] = some .pollonce ∧ decode .le ⟨.pseudo, [0, 1, 0, 1, 0, 7]⟩ = .error (.channel 1) ∧
    decode .le ⟨.pseudo, [3]⟩ = .error (.unassigned 3) := by decide

/-- R300, R302: codes and classes. -/
theorem test_results : (Result.err (.chipError 5)).code.number = 13 ∧ (Result.err (.chipError 5)).tag = .recoverable ∧
    (Result.err (.invalidArgument .size)).tag = .fatal ∧ (Result.noPacket .f2NotReady).tag = .noPacketAvailable := by
  decide

/-! ### Well-formedness: an ill-formed term for each check -/

theorem smoke_operands : ([.rdreg 0 0 256,
    .wrreg 0 0 256 0,
    .rdbytes 0 0 65536,
    .bprd 0 256,
    .bpwr 0 256 0,
    .bprdbytes 0 65536,
    .txdata 256 [],
    .ioctlset 0 256 [],
    .ioctlget 0 256 [],
    .iovarset [] 256 [],
    .iovarget [] 256,
    .rxone 65536,
    .cmdWrBus true 0 2 [1],
    .cmdWrBp true 0 1 [1, 2],
    .cmdWrWlan true 0 0 [1],
    .cmdWrReserved true 0 1 []] : List Instr).all (fun i => !i.wf) = true := by decide

/-- A byte string of 65536 bytes has no 16-bit count. -/
theorem smoke_strings (b : List Byte) (h : b.length = 65536) :
    ([.wrbytes 0 0 b, .bpwrbytes 0 b, .txctl b, .txdata 0 b, .ioctlset 0 0 b, .ioctlget 0 0 b, .iovarset b 0 [],
      .iovarset [] 0 b, .iovarget b 0] : List Instr).all (fun i => !i.wf) = true := by
  simp [Instr.wf, h]

theorem test_suggested_wf : Config.suggested.wf = true := by decide

/-- One configuration for each constraint of R7 it violates. -/
theorem smoke_config : ([
    { Config.suggested with busMaxXfer := 0 },
    { Config.suggested with busMaxXfer := 2048 },
    { Config.suggested with bpMaxXfer := 0 },
    { Config.suggested with bpMaxXfer := 2047, busMaxXfer := 2046 },
    { Config.suggested with intStatusWidth := 3 },
    { Config.suggested with bpFlag4B := 0x08001 },
    { Config.suggested with winBaseDefault := 0x18000400 },
    { Config.suggested with regWinMid := 0x1000C },
    { Config.suggested with regWinLow := 0x1000C },
    { Config.suggested with regWinLow := 0x1000B },
    { Config.suggested with irqUnderflow := 3 },
    { Config.suggested with irqUnderflow := 1 },
    { Config.suggested with stF2RxReady := 0 },
    { Config.suggested with stF2RxReady := 1 },
    { Config.suggested with stF2PktLenShift := 22 },
    { Config.suggested with stF2PktAvailable := 0x200 },
    { Config.suggested with ioctlBufSize := 24 },
    { Config.suggested with ioctlBufSize := 30 },
    { Config.suggested with iovarBufSize := 2 },
    { Config.suggested with rxBufSize := 24 },
    { Config.suggested with rxBufSize := 2049 },
    { Config.suggested with ifaceMax := 16 },
    { Config.suggested with wlcGetVar := 263 },
    { Config.suggested with cmdValid := .only [263] },
    { Config.suggested with cmdValid := .only [262] },
    { Config.suggested with ethertypeLink := [0x88] },
    { Config.suggested with eventOui := [0, 0x10, 0x18, 0] }
    ] : List Config).all (fun c => !c.wf) = true := by decide

/-- An illegal configuration is refused (R7, log 10). -/
theorem test_illegal_config_refused :
    step { State.reset with cfg := { Config.suggested with busMaxXfer := 0 } } = .refused .illFormedConfig := by rfl

/-! ### One step of each instruction -/

/-- T1. -/
theorem test_rdreg : ran (.rdreg 0 0x14 4) (answered [([0xAD, 0xBE, 0xED, 0xFE], 0x20)]) =
    (some (.ok (.word 0xFEEDBEAD)), [.xfer [0x04, 0xA0, 0x00, 0x40] (some [0xAD, 0xBE, 0xED, 0xFE, 0x20, 0, 0, 0])]) := by decide

/-- T4, T9, T10, T5. -/
theorem test_rdreg_backplane : resultOf (.rdreg 1 0x1FFFF 1) (answered [([1, 2, 3, 4, 0x7C, 9, 9, 9], 0x20)]) = some (.ok (.word 0x7C)) ∧
    resultOf (.rdreg 0 0x14 3) State.reset = some (.err (.invalidArgument .size)) ∧
    resultOf (.rdreg 3 0 4) State.reset = some (.err (.invalidArgument .function)) ∧
    resultOf (.rdreg 0 0x14 4) (answered [([1, 2, 3, 4], 0x21)]) = some (.err .dataUnavailable) := by decide

/-- T8. -/
theorem test_wrreg : ran (.wrreg 0 2 2 0x12345678) (answered [([], 0x20)]) =
    (some (.ok .unit), [.xfer [0x02, 0x10, 0x00, 0xC0, 0x78, 0x56, 0, 0] (some [0x20, 0, 0, 0])]) := by decide

/-- T6: the cache is not told (R354). -/
theorem test_wrreg_selector : after (fun t => (t.chipSel.high, t.win)) (.wrreg 1 0x1000C 1 0x18) (answered [([], 0x20)]) = some (0x18, 0) := by decide

/-- T12, T15. -/
theorem test_rdbytes : resultOf (.rdbytes 2 0 5) (answered [([1, 2, 3, 4, 5, 6, 7, 8], 0x20)]) = some (.ok (.bytes [1, 2, 3, 4, 5])) ∧
    resultOf (.rdbytes 2 0 2048) State.reset = some (.err (.invalidArgument .length)) := by decide

/-- T16. -/
theorem test_rdbytes_fails : after (fun t => (t.result, t.lastStatus)) (.rdbytes 2 0 64) (told [.fail]) = some (some (.err (.busFailure 0x60000040)), 0) := by decide

/-- T13, T14. -/
theorem test_wrbytes : ran (.wrbytes 2 0 [1, 2, 3, 4, 5]) (answered [([], 0x20)]) =
    (some (.ok .unit), [.xfer [0x05, 0, 0, 0xE0, 1, 2, 3, 4, 5, 0, 0, 0] (some [0x20, 0, 0, 0])]) ∧
    resultOf (.wrbytes 2 0 []) State.reset = some (.err (.invalidArgument .length)) := by decide

/-- Section 2.5. -/
theorem test_setwin : ran (.setwin 0x18108000) (answered [([], 0x20), ([], 0x20), ([], 0x20)]) =
    (some (.ok .unit), [.xfer [0x01, 0x60, 0, 0xD8, 0x18, 0, 0, 0] (some [0x20, 0, 0, 0]),
      .xfer [0x01, 0x58, 0, 0xD8, 0x10, 0, 0, 0] (some [0x20, 0, 0, 0]),
      .xfer [0x01, 0x50, 0, 0xD8, 0x80, 0, 0, 0] (some [0x20, 0, 0, 0])]) := by decide

/-- Program 1, variant 1b. -/
theorem test_setwin_fails : after (fun t => (t.result, t.winValid, t.win, transactions t.trace)) (.setwin 0x18108000)
      (told [reply Config.suggested [] 0x20, .fail]) =
    some (some (.err (.busFailure 0xD8005801)), false, 0, 2) := by decide

/-- Section 2.5. -/
theorem test_bprd : ran (.bprd 0x18000408 1) { answered [([7, 7, 7, 7, 0x2A, 1, 1, 1], 0x20)] with win := 0x18000000 } =
    (some (.ok (.word 0x2A)),
      [.xfer [0x01, 0x40, 0x20, 0x50] (some [7, 7, 7, 7, 0x2A, 1, 1, 1, 0x20, 0, 0, 0])]) ∧
    resultOf (.bprd 0x18000001 2) State.reset = some (.err (.invalidArgument .alignment)) := by decide

/-- Section 2.5: 0xD4332004, offset 0x0664 with the 4-byte flag. -/
theorem test_bpwr : ran (.bpwr 0x18000664 4 1) { answered [([], 0x20)] with win := 0x18000000 } =
    (some (.ok .unit), [.xfer [0x04, 0x20, 0x33, 0xD4, 1, 0, 0, 0] (some [0x20, 0, 0, 0])]) := by decide

/-- Section 2.5: 0x53FF8010. -/
theorem test_bprdbytes : resultOf (.bprdbytes 0x7FF0 17) State.reset = some (.err (.invalidArgument .window)) ∧
    (ran (.bprdbytes 0x7FF0 16) (answered [(zeros 20, 0x20)])).2 =
      [.xfer [0x10, 0x80, 0xFF, 0x53] (some (zeros 20 ++ [0x20, 0, 0, 0]))] := by decide

/-- Program 1, step 2 (shorter), and section 2.5. -/
theorem test_bpwrbytes : (ran (.bpwrbytes 0x40 [0x40, 0x41]) (answered [([], 0x20)])).2 =
    [.xfer [0x02, 0x00, 0x02, 0xD0, 0x40, 0x41, 0, 0] (some [0x20, 0, 0, 0])] ∧
    resultOf (.bpwrbytes 0 (zeros 65)) State.reset = some (.err (.invalidArgument .length)) := by decide

/-- Section 2.6. -/
theorem test_hascredit : ([(0, 0, false), (0, 1, true), (0, 127, true), (0, 128, false), (5, 4, false), (250, 121, true), (250, 122, false),
      (255, 0, true), (128, 0, false), (127, 255, false)] : List (Byte × Byte × Bool)).all (fun r =>
    resultOf .hascredit { State.reset with seq := r.1, creditMax := r.2.1 } == some (.ok (.bool r.2.2))) = true := by decide

/-- Section 2.6: 17-byte body. -/
theorem test_txctl : after (fun t => (t.seq, t.trace)) (.txctl (zeros 17)) { answered [([], 0x20)] with seq := 7, creditMax := 8 } =
    some (8, [.xfer ([0x1D, 0, 0, 0xE0, 0x1D, 0, 0xE2, 0xFF, 7, 0, 0, 0x0C, 0, 0, 0, 0] ++ zeros 20) (some [0x20, 0, 0, 0])]) ∧
    resultOf (.txctl (zeros 15)) State.reset = some (.err .bufferTooSmall) := by decide

/-- R211: a frame of 2048 bytes is longer than a transfer, but not than `ioctl_buf` as suggested; one of 2049 bytes exceeds
both, and the room is tested first. -/
theorem test_txctl_long : resultOf (.txctl (zeros 2036)) State.reset = some (.err (.invalidArgument .length)) ∧
    resultOf (.txctl (zeros 2037)) State.reset = some (.err .bufferTooSmall) := by
  simp only [resultOf, ran, exec, execTxctl, returningUnit, txCtl, bind_assoc, zeros_length]
  rw [operation_free rfl, operation_free rfl,
    bind_run_error ((checkControlSize_run 2036 _).trans ((if_neg (by decide)).trans (if_pos (by decide)))),
    bind_run_error ((checkControlSize_run 2037 _).trans (if_pos (by decide)))]
  exact ⟨rfl, rfl⟩

/-- Program 4. -/
theorem test_txctl_timeout : after (fun t => (t.result, t.seq, transactions t.trace, t.trace.length)) (.txctl (zeros 16))
      (answered [silent, silent, silent]) = some (some (.err .creditTimeout), 0, 3, 6) := by decide

/-- Section 2.6. -/
theorem test_txdata : after (fun t => (t.seq, t.trace)) (.txdata 1 [0xAA]) { answered [([], 0x20)] with seq := 255 } =
    some (0, [.xfer [0x13, 0, 0, 0xE0, 0x13, 0, 0xEC, 0xFF, 0xFF, 2, 0, 0x0E, 0, 0, 0, 0, 0, 0, 0x20, 0, 1, 0, 0xAA, 0]
      (some [0x20, 0, 0, 0])]) ∧
    resultOf (.txdata 3 []) State.reset = some (.err (.invalidArgument .interface)) := by decide

/-- Section 2.7: the frame; no response comes (R238). -/
theorem test_ioctlset : after (fun t => (t.result, t.ioctlId, t.seq, t.trace.take 1)) (.ioctlset 2 0 [])
      { answered [([], 0x20), silent, silent, silent] with creditMax := 1 } =
    some (some (.err .ioctlPollTimeout), 1, 1, [.xfer [0x1C, 0, 0, 0xE0, 0x1C, 0, 0xE3, 0xFF, 0, 0, 0, 0x0C, 0, 0, 0, 0,
      2, 0, 0, 0, 0, 0, 0, 0, 2, 0, 1, 0, 0, 0, 0, 0] (some [0x20, 0, 0, 0])]) := by decide +kernel

/-- A control packet with the CDC flags and status given and a 6-byte payload, credit 6 (Program 2, packet D). -/
def response (flags status : Word) : List Byte :=
  [0x22, 0, 0xDD, 0xFF, 2, 0, 0, 0x0C, 0, 6, 0, 0, 6, 1, 0, 0, 0x14, 0, 0, 0] ++ le32 flags ++ le32 status ++
    [0x28, 0xCD, 0xC1, 0, 0x11, 0x22]

/-- What the chip answers to a request and to one poll. -/
def answers1 (b : List Byte) : List Answer :=
  reply Config.suggested [] 0x20 :: (brings b).answers Config.suggested

/-- The power-on state with credit 1 and ID 4 used last. -/
def asking (a : List Answer) : State := { told a with creditMax := 1, ioctlId := 4 }

/-- Section 2.7: ID 5, status 0xFFFFFFFD. -/
theorem test_ioctlset_chipError : resultOf (.ioctlset 2 0 []) (asking (answers1 (response 0x00050000 0xFFFFFFFD))) = some (.err (.chipError 0xFFFFFFFD)) := by decide

/-- Section 2.7: n is 4; only the ID is compared. -/
theorem test_ioctlget : resultOf (.ioctlget 1 0 [0, 0, 0, 0]) (asking (answers1 (response 0x00050002 0))) =
    some (.ok (.counted 4 [0x28, 0xCD, 0xC1, 0])) := by decide

/-- R135, R245. -/
theorem test_iovarset : after (fun t => (t.result, t.ioctlId, t.iovarBuf.map (·.2))) (.iovarset [0x61] 0 [8])
      (asking (answers1 (response 0x00050000 0))) = some (some (.ok .unit), 5, [0x61, 0, 8]) ∧
    resultOf (.iovarset [] 0 []) State.reset = some (.err (.invalidArgument .name)) := by decide

/-- R245, R246: the name, then `iovar_buf` (of 4 bytes here), then the interface. -/
theorem test_iovar_order :
    let s : State := { State.reset with cfg := { Config.suggested with iovarBufSize := 4 } }
    resultOf (.iovarset [0] 3 [1, 2, 3, 4]) s = some (.err (.invalidArgument .name)) ∧
    resultOf (.iovarset [0x61] 3 [1, 2, 3]) s = some (.err .bufferTooSmall) ∧
    resultOf (.iovarset [0x61] 3 [1, 2]) s = some (.err (.invalidArgument .interface)) ∧
    resultOf (.iovarget [0x61, 0x61, 0x61, 0x61] 3) s = some (.err .bufferTooSmall) := by decide

/-- Packets A, B and C of Program 2. -/
def packetA : List Byte := [0x10, 0, 0xEF, 0xFF, 0, 2, 0, 0x0C, 0, 1, 0, 0, 0x20, 0, 0, 0]
@[inherit_doc packetA] def packetB : List Byte :=
  [0x20, 0, 0xDF, 0xFF, 0, 0, 0, 0x0C, 0, 5, 0, 0, 6, 1, 0, 0, 4, 0, 0, 0, 0, 0, 9, 0, 0, 0, 0, 0, 1, 2, 3, 4]
@[inherit_doc packetA] def packetC : List Byte :=
  [0x30, 0, 0xCF, 0xFF, 1, 1, 0, 0x0C, 0, 5, 0, 0, 0x20, 0, 0, 0] ++ zeros 12 ++ [0x88, 0x6C, 0, 0, 0, 0, 0, 0, 0x10, 0x18] ++
    zeros 10

/-- Program 2: nine transactions, three sleeps, one log, one delivery. -/
theorem test_iovarget : after (fun t => (t.result, t.seq, t.creditMax, t.ioctlId, transactions t.trace, t.trace.length))
      (.iovarget [0x63, 0x75, 0x72, 0x5F, 0x65, 0x74, 0x68, 0x65, 0x72, 0x61, 0x64, 0x64, 0x72] 0)
      (told ((brings packetA).answers Config.suggested ++ [reply Config.suggested [] 0x4120] ++
        (brings packetB).answers Config.suggested ++ (brings packetC).answers Config.suggested ++
        (brings (response 0x00010000 0)).answers Config.suggested)) =
    some (some (.ok (.bytes [0x28, 0xCD, 0xC1, 0, 0x11, 0x22])), 1, 6, 1, 9, 14) := by decide +kernel

/-- Section 2.8. -/
theorem test_buspoll : resultOf .buspoll (answered [([0, 0, 0, 0], 0)]) = some (.noPacket .nothing) ∧
    resultOf .buspoll (answered [([0x20, 0, 0, 0], 0x4100)]) = some (.noPacket .f2NotReady) ∧
    resultOf .buspoll (answered [([0x20, 0, 0, 0], 0x120)]) = some (.noPacket .nothing) ∧
    resultOf .buspoll (answered [([0x20, 0, 0, 0], 1)]) = some (.noPacket .dataUnavailable) ∧
    resultOf .buspoll { answered [([0x20, 0, 0, 0], 0xFFF20)] with
      cfg := { Config.suggested with rxBufSize := 1024 } } = some (.err .bufferTooSmall) := by decide

/-- Section 2.8. -/
theorem test_buspoll_packet : after (fun t => (t.result, t.flagUnderflow, t.flagOverflow, transactions t.trace)) .buspoll
      (answered [([0x26, 0, 0, 0], 0x4920), (zeros 36, 0x20)]) = some (some (.ok (.len 36)), true, true, 2) := by decide

/-- Section 2.8: X3, X4, X5, X7, X13, X14, X17. -/
theorem test_rxone : ([([0x00, 0x00, 0x00, 0x00, 0x00, 0x00, 0x00, 0x00, 0x00, 0x00, 0x00, 0x00], .err .corruptHeader, 3),
      ([0x1C, 0x00, 0xE3, 0xFF, 0x00, 0x00, 0x00, 0x0B, 0x00, 0x07, 0x00, 0x00, 0x00, 0x00, 0x00, 0x00, 0x00, 0x00, 0x00, 0x00, 0x00, 0x00, 0x00, 0x00, 0x00, 0x00, 0x00, 0x00], .err .corruptHeader, 7),
      ([0x28, 0x00, 0xD7, 0xFF, 0x00, 0x00, 0x00, 0x0C, 0x00, 0x07, 0x00, 0x00, 0x00, 0x00, 0x00, 0x00, 0x00, 0x00, 0x00, 0x00, 0x00, 0x00, 0x00, 0x00, 0x00, 0x00, 0x00, 0x00], .err .shortPacket, 7),
      ([0x1B, 0x00, 0xE4, 0xFF, 0x00, 0x00, 0x00, 0x0C, 0x00, 0x07, 0x00, 0x00, 0x00, 0x00, 0x00, 0x00, 0x00, 0x00, 0x00, 0x00, 0x00, 0x00, 0x00, 0x00, 0x00, 0x00, 0x00, 0x00], .err .shortPacket, 7),
      ([0x14, 0x00, 0xEB, 0xFF, 0x00, 0x02, 0x00, 0x0C, 0x00, 0x07, 0x00, 0x00, 0x20, 0x00, 0x00, 0x01, 0x00, 0x00, 0x00, 0x00], .ok (.packet (.data 20 0)), 7),
      ([0x14, 0x00, 0xEB, 0xFF, 0x00, 0x02, 0x00, 0x0C, 0x00, 0x07, 0x00, 0x00, 0x20, 0x00, 0x00, 0x02, 0x00, 0x00, 0x00, 0x00], .err .malformedBdc, 7),
      ([0x0C, 0x00, 0xF3, 0xFF, 0x00, 0x03, 0x00, 0x0C, 0x00, 0x55, 0x00, 0x00], .err (.unknownChannel 3), 85)] : List (List Byte × Result × Byte)).all (fun r =>
    after (fun t => (t.result, t.creditMax)) (.rxone r.1.length) (holding r.1) == some (some r.2.1, r.2.2)) = true := by decide

/-- Section 2.8: X19, X21. -/
theorem test_rxone_event : resultOf (.rxone 38) (holding ([0x26, 0, 0xD9, 0xFF, 0, 1, 0, 0x0C, 0, 7, 0, 0, 0, 0, 0, 0] ++ zeros 12 ++
      [0x88, 0x6C, 0, 0, 0, 0, 0, 0, 0x10, 0x18])) = some (.ok (.packet (.event 16 22))) ∧
    resultOf (.rxone 38) (holding ([0x26, 0, 0xD9, 0xFF, 0, 1, 0, 0x0C, 0, 7, 0, 0, 0, 0, 0, 0] ++ zeros 12 ++
      [0x88, 0x6D, 0, 0, 0, 0, 0, 0, 0x10, 0x18])) = some (.ok (.packet (.dropped .eventInvalid))) := by decide

/-- Packet E of Program 3. -/
def packetE : List Byte :=
  [0x28, 0, 0xD7, 0xFF, 3, 2, 0, 0x0E, 0, 0x0C, 0, 0, 0, 0, 0x20, 0, 0, 1, 0, 0, 0, 0,
    2, 0, 0, 0, 0, 1, 2, 0, 0, 0, 0, 2, 8, 0, 0x45, 0, 0, 0x14]

/-- Program 3, step 4. -/
theorem test_pollonce : after (fun t => (t.result, t.creditMax, t.trace.drop 2)) .pollonce
      { told ((brings packetE).answers Config.suggested) with cbSet := true, seq := 11, creditMax := 11 } =
    some (some (.ok (.bool true)), 0x0C, [.deliverEth [2, 0, 0, 0, 0, 1, 2, 0, 0, 0, 0, 2, 8, 0, 0x45, 0, 0, 0x14]]) := by decide

/-- Program 3, steps 6 and 7. -/
theorem test_pollonce_drops : ([([0x10, 0, 0xEE, 0xFF] ++ zeros 12, .ok (.bool false), .log .corruptHeader),
      ([0x10, 0, 0xEF, 0xFF, 5, 3, 0, 0x0C, 0, 0x0D, 0, 0, 0, 0, 0, 0], .err (.unknownChannel 3), .log .unknownChannel)]
      : List (List Byte × Result × PortEvent)).all (fun r =>
    after (fun t => (t.result, t.trace.drop 2)) .pollonce (told ((brings r.1).answers Config.suggested)) ==
      some (some r.2.1, [r.2.2])) = true := by decide

/-- R279. -/
theorem test_setcb : after State.cbSet (.setcb true) State.reset = some true ∧
    after State.cbSet (.setcb false) { State.reset with cbSet := true } = some false := by decide

/-- Section 2.9. -/
theorem test_reset : after (fun t => ([t.seq, t.creditMax], t.ioctlId, t.win, [t.winValid, t.flagUnderflow, t.flagOverflow, t.cbSet])) .reset
      { State.reset with seq := 7, creditMax := 12, ioctlId := 3, win := 0x18000000, winValid := false,
                         flagUnderflow := true, flagOverflow := true, cbSet := true } =
    some ([0, 0], 0, 0, [true, false, false, true]) := by decide

/-- R106, R102. -/
theorem test_cmd_reads : resultOf (.cmdRdBus true 0x14 4) (answered [([1, 2, 3, 4], 0x20)]) = some (.ok (.bytes [1, 2, 3, 4])) ∧
    resultOf (.cmdRdBp true 0x8000 4) (answered [([9, 9, 9, 9, 1, 2, 3, 4], 0x20)]) = some (.ok (.bytes [1, 2, 3, 4])) ∧
    resultOf (.cmdRdWlan true 0 5) (answered [([1, 2, 3, 4, 5, 0, 0, 0], 0x20)]) = some (.ok (.bytes [1, 2, 3, 4, 5])) ∧
    resultOf (.cmdRdReserved true 0 4) State.reset = some (.err (.invalidArgument .function)) := by decide

/-- T7, T13, R40, R102. -/
theorem test_cmd_writes : (ran (.cmdWrBus true 0 4 [0xB1, 4, 3, 0]) (answered [([], 0x20)])).2 =
      [.xfer [0x04, 0, 0, 0xC0, 0xB1, 4, 3, 0] (some [0x20, 0, 0, 0])] ∧
    after State.chipSel (.cmdWrBp true 0x1000A 3 [1, 2, 3]) (answered [([], 0x20)]) = some ⟨3, 2, 1⟩ ∧
    (ran (.cmdWrWlan true 0 5 [1, 2, 3, 4, 5]) (answered [([], 0x20)])).2 =
      [.xfer [0x05, 0, 0, 0xE0, 1, 2, 3, 4, 5, 0, 0, 0] (some [0x20, 0, 0, 0])] ∧
    resultOf (.cmdWrReserved true 0 1 [1]) State.reset = some (.err (.invalidArgument .function)) := by decide

/-- Section 2.2. -/
theorem test_status : after (fun t => (t.lastStatus, t.result)) (.status 0x4120) State.reset =
    some (0x4120, some (.ok (.status ⟨false, false, false, true, true, 32⟩))) := by decide

/-- X8, X19, X16. -/
theorem test_sdpcm_rows : resultOf (.sdpcmControl ⟨0x1C, 0xFFE3, 0, 0, 0, 12, 0, 7, 0⟩ (zeros 16)) State.reset =
      some (.ok (.packet (.control 28 0 ⟨0, 0, 0, 0⟩))) ∧
    resultOf (.sdpcmEvent ⟨0x26, 0xFFD9, 0, 0, 0, 12, 0, 7, 0⟩ (zeros 16 ++
      [0x88, 0x6C, 0, 0, 0, 0, 0, 0, 0x10, 0x18])) State.reset = some (.ok (.packet (.event 16 22))) ∧
    resultOf (.sdpcmData ⟨0x10, 0xFFEF, 0, 1, 0, 12, 0, 7, 0⟩ [0x20, 0, 0, 0]) State.reset =
      some (.ok (.packet (.data 16 0))) := by decide

/-- X18, on every unknown channel. -/
theorem test_sdpcm_unknown : ([(.sdpcmUnknown3 ⟨0x0C, 0xFFF3, 0, 0, 0, 12, 0, 0x80, 0⟩ [], 3),
      (.sdpcmUnknown4 ⟨0x0C, 0xFFF3, 0, 0, 0, 12, 0, 0x80, 0⟩ [], 4),
      (.sdpcmUnknown5 ⟨0x0C, 0xFFF3, 0, 0, 0, 12, 0, 0x80, 0⟩ [], 5),
      (.sdpcmUnknown6 ⟨0x0C, 0xFFF3, 0, 0, 0, 12, 0, 0x80, 0⟩ [], 6),
      (.sdpcmUnknown7 ⟨0x0C, 0xFFF3, 0, 0, 0, 12, 0, 0x80, 0⟩ [], 7),
      (.sdpcmUnknown8 ⟨0x0C, 0xFFF3, 0, 0, 0, 12, 0, 0x80, 0⟩ [], 8),
      (.sdpcmUnknown9 ⟨0x0C, 0xFFF3, 0, 0, 0, 12, 0, 0x80, 0⟩ [], 9),
      (.sdpcmUnknown10 ⟨0x0C, 0xFFF3, 0, 0, 0, 12, 0, 0x80, 0⟩ [], 10),
      (.sdpcmUnknown11 ⟨0x0C, 0xFFF3, 0, 0, 0, 12, 0, 0x80, 0⟩ [], 11),
      (.sdpcmUnknown12 ⟨0x0C, 0xFFF3, 0, 0, 0, 12, 0, 0x80, 0⟩ [], 12),
      (.sdpcmUnknown13 ⟨0x0C, 0xFFF3, 0, 0, 0, 12, 0, 0x80, 0⟩ [], 13),
      (.sdpcmUnknown14 ⟨0x0C, 0xFFF3, 0, 0, 0, 12, 0, 0x80, 0⟩ [], 14),
      (.sdpcmUnknown15 ⟨0x0C, 0xFFF3, 0, 0, 0, 12, 0, 0x80, 0⟩ [], 15)] : List (Instr × Nat)).all (fun r =>
    after (fun t => (t.result, t.creditMax)) r.1 State.reset == some (some (.err (.unknownChannel r.2)), 0x80)) = true := by decide

/-- Section 2.7. -/
theorem test_cdc : ran (.cdcGet ⟨0x106, 4, 0, 0, 0, 4, 0⟩ [1]) (asking []) =
      (some (.ok (.cdc ⟨0x106, 4, 0x00040000, 0⟩ [1])), []) ∧
    ran (.cdcSet ⟨0x107, 4, 0, 0, 1, 9, 5⟩ []) (asking []) = (some (.ok (.cdc ⟨0x107, 4, 0x00091002, 5⟩ [])), []) := by
  decide

/-- Section 2.3. -/
theorem test_bdc : resultOf (.bdc ⟨0x20, 0, 1, 3⟩) State.reset = some (.ok (.bdc ⟨0x20, 0, 1, 3⟩ 16)) := by decide

/-- An operation placed as the first submission runs. -/
theorem test_step_runs_a_submission : (match step (State.reset.withFetchWord 8 0x43) with
    | .next t => (t.cbSet, t.result, t.requests)
    | _ => (true, none, [])) = (false, some (.ok .unit), []) := by decide

/-- Without a submission the engine waits (R50). -/
theorem test_step_waits : step State.reset = .next State.reset := by rfl

/-- R142: frameAndSend on the event channel is refused. -/
theorem test_frameAndSend_refused : (match step (State.reset.submit ⟨.pseudo, [0, 1, 0, 1, 0, 7]⟩) with
    | .next t => (t.result, t.requests, t.lock)
    | _ => (none, [], true)) = (some (.err (.invalidArgument .channel)), [], false) := by rfl

/-- Log 9. -/
theorem test_malformed : step (State.reset.submit ⟨.hostOp, [0x43, 2]⟩) = .fault .malformedRequest := by rfl

/-! ### Witnesses: for every statement that has hypotheses, a state and operands that meet all of them together; for a statement
of several clauses, one for each, at a boundary of its range where it has one -/

/-- The power-on state with credit 1. -/
def credited (a : List Answer) : State := { told a with creditMax := 1 }

/-- An empty control packet with credit 1 (section 2.8, X8). -/
def packetControl : List Byte := [0x1C, 0, 0xE3, 0xFF, 0, 0, 0, 0x0C, 0, 1, 0, 0] ++ zeros 16

/-- The 38-byte event packet of X19, and the same with a wrong marker (X21). -/
def packetEvent : List Byte :=
  [0x26, 0, 0xD9, 0xFF, 0, 1, 0, 0x0C, 0, 7, 0, 0, 0, 0, 0, 0] ++ zeros 12 ++ [0x88, 0x6C, 0, 0, 0, 0, 0, 0, 0x10, 0x18]
@[inherit_doc packetEvent] def packetBadEvent : List Byte :=
  [0x26, 0, 0xD9, 0xFF, 0, 1, 0, 0x0C, 0, 7, 0, 0, 0, 0, 0, 0] ++ zeros 12 ++ [0x88, 0x6D, 0, 0, 0, 0, 0, 0, 0x10, 0x18]

/-- A data packet whose payload start lies behind its end (X14), and one of an unknown channel (X17). -/
def packetMalformed : List Byte := [0x14, 0, 0xEB, 0xFF, 0, 2, 0, 0x0C, 0, 7, 0, 0, 0x20, 0, 0, 2, 0, 0, 0, 0]
@[inherit_doc packetMalformed] def packetUnknown : List Byte := [0x0C, 0, 0xF3, 0xFF, 0, 3, 0, 0x0C, 0, 0x55, 0, 0]

/-- The packets of section 2.8 that RXONE rejects for their header length (X4), their size (X5, X6) and the size of their
sub-header (X7, X12). -/
def packetX4 : List Byte := [0x1C, 0, 0xE3, 0xFF, 0, 0, 0, 0x0B, 0, 7, 0, 0] ++ zeros 16
@[inherit_doc packetX4] def packetX5 : List Byte := [0x28, 0, 0xD7, 0xFF, 0, 0, 0, 0x0C, 0, 7, 0, 0] ++ zeros 16
@[inherit_doc packetX4] def packetX6 : List Byte := [0x08, 0, 0xF7, 0xFF, 0, 0, 0, 0x0C, 0, 7, 0, 0]
@[inherit_doc packetX4] def packetX7 : List Byte := [0x1B, 0, 0xE4, 0xFF, 0, 0, 0, 0x0C, 0, 7, 0, 0] ++ zeros 16
@[inherit_doc packetX4] def packetX12 : List Byte := [0x0F, 0, 0xF0, 0xFF, 0, 2, 0, 0x0C, 0, 7, 0, 0, 0, 0, 0, 0]

/-- The chip's answers to the poll `brings b`. -/
def polled (b : List Byte) : List Answer := (brings b).answers Config.suggested

/-- A write that is answered. -/
def written : Answer := reply Config.suggested [] 0x20

theorem witness_DecodeEncode :
    (([.rdreg 255 0 255, .wrreg 3 0 255 1, .rdbytes 0 0 65535, .wrbytes 0 0 [], .setwin 0, .bprd 0 255, .bprdbytes 0 65535,
      .txdata 255 [1], .ioctlset 0 255 [], .iovarset [1] 255 [2], .iovarget [] 255, .rxone 65535, .setcb true,
      .cmdWrBus true 0 2 [1, 2], .cmdWrReserved false 0x1FFFF 1 [9], .status 0xFFFFFFFF,
      .bdc ⟨1, 2, 3, 4⟩] : List Instr).all Instr.wf) = true ∧
    ∀ b : List Byte, b.length = 65535 → (Instr.wrbytes 0 0 b).wf = true :=
  ⟨by decide, fun b h => by simp [Instr.wf, h]⟩

theorem witness_StepRunsDecoded :
    ∃ (s : State) (r : Request) (rest : List Request) (i : Instr),
      s.cfg.wf = true ∧ s.lock = false ∧ s.requests = r :: rest ∧ decode s.cfg.wireOrder r = .ok i :=
  ⟨State.reset.submit ⟨.hostOp, [0x50]⟩, ⟨.hostOp, [0x50]⟩, [], .reset, by decide⟩

theorem witness_UnassignedSelectorRefused :
    ∀ sel ∈ ([0x00, 0x05, 0x51, 0xFF] : List Byte), ∃ (s : State) (operands : List Byte) (rest : List Request),
      s.cfg.wf = true ∧ s.lock = false ∧ s.requests = ⟨.hostOp, sel :: operands⟩ :: rest ∧
      sel.toNat ∉ [0x01, 0x02, 0x03, 0x04, 0x10, 0x11, 0x12, 0x13, 0x14, 0x20, 0x21, 0x22, 0x30, 0x31, 0x32, 0x33,
        0x40, 0x41, 0x42, 0x43, 0x50] := by
  intro sel h
  refine ⟨State.reset.submit ⟨.hostOp, [sel, 7]⟩, [7], [], test_suggested_wf, rfl, rfl, ?_⟩
  revert sel
  decide

theorem witness_LockHeldWaits : ∃ s : State, s.cfg.wf = true ∧ s.lock = true :=
  ⟨{ State.reset with lock := true, phase := .run .reset 0 }, by decide⟩

theorem witness_OperationsReleaseTheLock : ∃ s : State, s.lock = false ∧ ∀ b ∈ s.reentries, b = false :=
  ⟨{ State.reset with reentries := [false, false] }, by decide⟩

/-- The power-on state with RESET submitted satisfies the invariant and makes a step (also for StepKeepsBusLegal and
StepKeepsConfigAndTrace). -/
theorem witness_StepKeepsInvariant :
    ∃ s t : State, s.Inv ∧ s.busLegal ∧ step s = .next t ∧ t.result = some (.ok .unit) :=
  ⟨State.reset.submit ⟨.hostOp, [0x50]⟩, _, ⟨by decide, by decide, by decide, by decide, by decide, by decide⟩,
    (fun e h => nomatch h), rfl, rfl⟩

/-- A state with both flags set, and an instruction other than RESET that completes. -/
theorem witness_OnlyResetClearsFlags :
    ∃ (i : Instr) (s t : State), i ≠ .reset ∧ exec i s = .next t ∧ s.flagUnderflow = true ∧ s.flagOverflow = true :=
  ⟨.hascredit, { State.reset with flagUnderflow := true, flagOverflow := true }, _, by decide, rfl, rfl, rfl⟩

theorem witness_WindowCacheAgrees :
    ∃ (i : Instr) (s t : State), s.cfg.wf = true ∧ selectorsApart s.cfg = true ∧ ¬ bypassesWindow i ∧ s.windowAgrees ∧
      exec i s = .next t ∧ t.winValid = true ∧ t.win = 0x18000000 := by
  refine ⟨.setwin 0x18000000, told [written], _, by decide, by decide, ?_, fun _ => rfl, rfl, by decide, by decide⟩
  rintro (⟨_, _, _, h⟩ | ⟨_, _, h⟩ | ⟨_, _, _, _, h⟩ | h) <;> cases h

/-- TXCTL stores 28 bytes to `ioctl_buf` and none to `iovar_buf`. -/
theorem witness_BuffersFrame :
    ∃ (i : Instr) (s t : State), exec i s = .next t ∧ storedBelow s.cfg i .ioctl = 28 ∧ storedBelow s.cfg i .iovar = 0 ∧
      t.ioctlBuf.length = 28 :=
  ⟨.txctl (zeros 16), credited [written], _, rfl, by decide, by decide, by decide⟩

/-- RESET, SETCB, HASCREDIT, TransportRefusals, CommandWordRefusals and the like ask that the lock is free. -/
theorem witness_lock_free : State.reset.lock = false := rfl

theorem witness_RdregResult :
    ∀ size ∈ [1, 2, 4], ∃ (s : State) (fn : Byte) (addr : Word) (back : List Byte) (st : Word) (rest : List Answer),
      s.lock = false ∧ fn.toNat < 3 ∧ addr.toNat < 2 ^ 17 ∧ (size = 1 ∨ size = 2 ∨ size = 4) ∧
      back.length = readLength (fn.setWidth 2) size ∧ (decStatus s.cfg st).dataNa = false ∧
      s.answers = reply s.cfg back st :: rest := by
  intro size h
  refine ⟨answered [(zeros 8, 0x20)], 1, 0x1FFFF, zeros 8, 0x20, [], rfl, by decide, by decide, ?_, ?_, by decide, rfl⟩ <;>
    revert size <;> decide

theorem witness_WrregResult :
    ∃ (s : State) (fn : Byte) (addr st : Word) (size : Nat) (rest : List Answer),
      s.lock = false ∧ fn.toNat < 3 ∧ addr.toNat < 2 ^ 17 ∧ (size = 1 ∨ size = 2 ∨ size = 4) ∧
      s.answers = reply s.cfg [] st :: rest :=
  ⟨told [written], 2, 0x1FFFF, 0x20, 4, [], by decide⟩

theorem witness_RdbytesResult :
    ∃ (s : State) (fn : Byte) (addr : Word) (n : Nat) (back : List Byte) (st : Word) (rest : List Answer),
      s.lock = false ∧ fn.toNat < 3 ∧ addr.toNat < 2 ^ 17 ∧ 1 ≤ n ∧ n ≤ s.cfg.busMaxXfer ∧
      back.length = readLength (fn.setWidth 2) n ∧ (decStatus s.cfg st).dataNa = false ∧
      s.answers = reply s.cfg back st :: rest :=
  ⟨answered [(zeros 2048, 0x20)], 2, 0, 2047, zeros 2048, 0x20, [], rfl, by decide, by decide, by decide, by decide,
    by rw [zeros_length]; decide, by decide, rfl⟩

theorem witness_WrbytesResult :
    ∃ (s : State) (fn : Byte) (addr : Word) (bytes : List Byte) (st : Word) (rest : List Answer),
      s.cfg.wf = true ∧ s.lock = false ∧ fn.toNat < 3 ∧ addr.toNat < 2 ^ 17 ∧ 1 ≤ bytes.length ∧
      bytes.length ≤ s.cfg.busMaxXfer ∧ s.answers = reply s.cfg [] st :: rest :=
  ⟨told [written], 1, 0x1000A, zeros 2047, 0x20, [], by decide, rfl, by decide, by decide,
    by rw [zeros_length]; decide, by rw [zeros_length]; decide, rfl⟩

/-- Each clause of the refusals of the transport operations: the function, the address, the size, the two lengths. -/
theorem witness_TransportRefusals :
    3 ≤ (3 : Byte).toNat ∧ (2 : Byte).toNat < 3 ∧ 2 ^ 17 ≤ (0x20000 : Word).toNat ∧ (0x1FFFF : Word).toNat < 2 ^ 17 ∧
    ¬ (3 = 1 ∨ 3 = 2 ∨ 3 = 4) ∧ State.reset.cfg.busMaxXfer < 2048 ∧ ([] : List Byte).length = 0 ∧
    State.reset.cfg.busMaxXfer < (zeros 2048).length :=
  ⟨by decide, by decide, by decide, by decide, by decide, by decide, by decide, by rw [zeros_length]; decide⟩

theorem witness_ReadUnavailable :
    ∃ (s : State) (fn : Byte) (addr : Word) (n : Nat) (back : List Byte) (st : Word) (rest : List Answer),
      s.lock = false ∧ fn.toNat < 3 ∧ addr.toNat < 2 ^ 17 ∧ back.length = readLength (fn.setWidth 2) n ∧
      (decStatus s.cfg st).dataNa = true ∧ s.answers = reply s.cfg back st :: rest ∧
      (n = 1 ∨ n = 2 ∨ n = 4) ∧ 1 ≤ n ∧ n ≤ s.cfg.busMaxXfer :=
  ⟨answered [(zeros 4, 0x21)], 0, 0x14, 4, zeros 4, 0x21, [], by decide⟩

/-- The clause of BPRD and BPRDBYTES, in another window, at the last 4-byte register of it. -/
theorem witness_ReadUnavailable_backplane :
    ∃ (s : State) (addr : Word) (n : Nat) (sts : List Word) (back : List Byte) (st : Word) (rest : List Answer),
      s.cfg.wf = true ∧ s.lock = false ∧ sts.length = (s.selectorsDue addr).length ∧
      s.answers = sts.map (reply s.cfg []) ++ reply s.cfg back st :: rest ∧ back.length = 4 + roundup4 n ∧
      (decStatus s.cfg st).dataNa = true ∧ ((n = 1 ∨ n = 2 ∨ n = 4) ∧ addr.toNat % n = 0) ∧
      (1 ≤ n ∧ n ≤ s.cfg.bpMaxXfer ∧ (addr &&& 0x7FFF).toNat + n ≤ 0x8000) :=
  ⟨told [written, reply Config.suggested (zeros 8) 0x21], 0x18007FFC, 4, [0x20], zeros 8, 0x21, [], by decide⟩

/-- The clause of the read command words, for each function. -/
theorem witness_ReadUnavailable_command :
    ∀ fn ∈ ([0, 1, 2] : List FnCode), ∃ (s : State) (len : LenField) (back : List Byte) (st : Word) (rest : List Answer),
      s.lock = false ∧ len ≠ 0 ∧ (decStatus s.cfg st).dataNa = true ∧ s.answers = reply s.cfg back st :: rest ∧
      back.length = readLength fn len.toNat := by
  intro fn h
  refine ⟨answered [(zeros (readLength fn 1), 0x21)], 1, zeros (readLength fn 1), 0x21, [], rfl, by decide, ?_, rfl, ?_⟩ <;>
    revert fn <;> decide

/-- A failure deep in a wait: TXCTL without credit, its second poll failing. -/
theorem witness_BusFailures :
    ∃ (i : Instr) (s t : State) (out : List Byte), exec i s = .next t ∧
      PortEvent.xfer out none ∈ t.trace.drop s.trace.length ∧ t.trace.length = 3 :=
  ⟨.txctl (zeros 16), told [reply Config.suggested silent.1 silent.2, .fail], _, [0x02, 0x20, 0x00, 0x40], rfl, by decide,
    by decide⟩

/-- A failing transaction; a write of one byte of a value, to the backplane function beside the selectors. -/
theorem witness_BusFailures_transport :
    ∃ (s : State) (fn : Byte) (addr : Word) (rest : List Answer) (bytes : List Byte),
      s.cfg.wf = true ∧ s.lock = false ∧ fn.toNat < 3 ∧ addr.toNat < 2 ^ 17 ∧ s.answers = .fail :: rest ∧
      1 ≤ bytes.length ∧ bytes.length ≤ s.cfg.busMaxXfer ∧ s.cfg.regWinHigh.toNat < addr.toNat ∧
      (bytes.length = 1 ∨ bytes.length = 2 ∨ bytes.length = 4) ∧
      bytes = [wordByte 7 0, wordByte 7 1, wordByte 7 2, wordByte 7 3].take bytes.length :=
  ⟨told [.fail], 1, 0x1000D, [], [7], by decide⟩

theorem witness_CommandWordResults :
    ∃ (s u : State) (len : LenField) (back back' data : List Byte) (st : Word) (rest : List Answer),
      s.lock = false ∧ u.lock = false ∧ len ≠ 0 ∧ data.length = len.toNat ∧
      (back.length = readLength 2 len.toNat ∧ back.length = readLength 0 len.toNat ∧ (decStatus s.cfg st).dataNa = false ∧
        s.answers = reply s.cfg back st :: rest) ∧
      (back'.length = readLength 1 len.toNat ∧ u.answers = reply u.cfg back' st :: rest) ∧
      ∃ v : State, v.lock = false ∧ v.answers = reply v.cfg [] st :: rest :=
  ⟨answered [(zeros 4, 0x20)], answered [(zeros 8, 0x20)], 1, zeros 4, zeros 8, [0xAB], 0x20, [], rfl, rfl, by decide,
    by decide, by decide, by decide, told [written], by decide⟩

/-- SETWIN with three writes, with one, and with none (section 2.5). -/
theorem witness_SetwinResult :
    ∀ p ∈ ([(0x18108000, 3), (0x18000000, 1), (0x00007FFF, 0)] : List (Word × Nat)),
      ∃ (s : State) (sts : List Word) (rest : List Answer),
        s.cfg.wf = true ∧ s.lock = false ∧ sts.length = (s.selectorsDue p.1).length ∧ sts.length = p.2 ∧
        s.answers = sts.map (reply s.cfg []) ++ rest := by
  intro p h
  refine ⟨{ State.reset with answers := (List.replicate p.2 (0x20 : Word)).map (reply Config.suggested []) },
    List.replicate p.2 0x20, [], test_suggested_wf, rfl, ?_, by simp, by simp [State.reset]⟩
  revert p
  decide

theorem witness_SetwinTransactionCount :
    ∃ (s t : State) (addr : Word), s.lock = false ∧ exec (.setwin addr) s = .next t ∧ t.result = some (.ok .unit) ∧
      s.winValid = false :=
  ⟨{ told [written, written, written] with winValid := false }, _, 0, rfl, rfl, by decide, rfl⟩

/-- A SETWIN whose second write fails (Program 1, variant 1b). -/
theorem witness_SetwinFailure :
    ∃ (s t : State) (addr : Word) (e : Err), s.lock = false ∧ exec (.setwin addr) s = .next t ∧
      t.result = some (.err e) :=
  ⟨told [written, .fail], _, 0x18108000, .busFailure 0xD8005801, rfl, rfl, by decide⟩

/-- BPRD and BPWR into another window, each size, at the last aligned offset. -/
theorem witness_BprdResult :
    ∀ p ∈ ([(1, 0x18007FFF), (2, 0x18007FFE), (4, 0x18007FFC)] : List (Nat × Word)),
      ∃ (s : State) (sts : List Word) (back : List Byte) (st : Word) (rest : List Answer),
        s.cfg.wf = true ∧ s.lock = false ∧ (p.1 = 1 ∨ p.1 = 2 ∨ p.1 = 4) ∧ p.2.toNat % p.1 = 0 ∧
        sts.length = (s.selectorsDue p.2).length ∧
        s.answers = sts.map (reply s.cfg []) ++ reply s.cfg back st :: rest ∧
        back.length = 4 + roundup4 p.1 ∧ (decStatus s.cfg st).dataNa = false := by
  intro p h
  refine ⟨told [written, reply Config.suggested (zeros 8) 0x20], [0x20], zeros 8, 0x20, [], by decide, rfl, ?_, ?_, ?_, rfl,
    ?_, by decide⟩ <;> revert p <;> decide

theorem witness_BpwrResult :
    ∃ (s : State) (addr : Word) (size : Nat) (sts : List Word) (st : Word) (rest : List Answer),
      s.cfg.wf = true ∧ s.lock = false ∧ (size = 1 ∨ size = 2 ∨ size = 4) ∧ addr.toNat % size = 0 ∧
      sts.length = (s.selectorsDue addr).length ∧ s.answers = sts.map (reply s.cfg []) ++ reply s.cfg [] st :: rest :=
  ⟨told [written, written], 0x18000664, 4, [0x20], 0x20, [], by decide⟩

/-- BPRDBYTES and BPWRBYTES up to the end of the window, one byte and 64 bytes. -/
theorem witness_BprdbytesResult :
    ∀ p ∈ ([(1, 0x18007FFF), (64, 0x18007FC0)] : List (Nat × Word)),
      ∃ (s : State) (sts : List Word) (back : List Byte) (st : Word) (rest : List Answer),
        s.cfg.wf = true ∧ s.lock = false ∧ 1 ≤ p.1 ∧ p.1 ≤ s.cfg.bpMaxXfer ∧ (p.2 &&& 0x7FFF).toNat + p.1 ≤ 0x8000 ∧
        sts.length = (s.selectorsDue p.2).length ∧
        s.answers = sts.map (reply s.cfg []) ++ reply s.cfg back st :: rest ∧
        back.length = 4 + roundup4 p.1 ∧ (decStatus s.cfg st).dataNa = false := by
  intro p h
  refine ⟨told [written, reply Config.suggested (zeros (4 + roundup4 p.1)) 0x20], [0x20], zeros (4 + roundup4 p.1), 0x20, [],
    test_suggested_wf, rfl, ?_, ?_, ?_, ?_, rfl, by rw [zeros_length],
    (by decide : (decStatus Config.suggested 0x20).dataNa = false)⟩ <;> revert p <;> decide

theorem witness_BpwrbytesResult :
    ∃ (s : State) (addr : Word) (bytes : List Byte) (sts : List Word) (st : Word) (rest : List Answer),
      s.cfg.wf = true ∧ s.lock = false ∧ 1 ≤ bytes.length ∧ bytes.length ≤ s.cfg.bpMaxXfer ∧
      (addr &&& 0x7FFF).toNat + bytes.length ≤ 0x8000 ∧ sts.length = (s.selectorsDue addr).length ∧
      s.answers = sts.map (reply s.cfg []) ++ reply s.cfg [] st :: rest :=
  ⟨told [written, written], 0x18007FC0, zeros 64, [0x20], 0x20, [], by decide⟩

/-- Each clause of the refusals of the backplane operations. -/
theorem witness_BackplaneRefusals :
    ¬ (8 = 1 ∨ 8 = 2 ∨ 8 = 4) ∧ (0x18000001 : Word).toNat % 2 ≠ 0 ∧ (0x18000002 : Word).toNat % 4 ≠ 0 ∧
    State.reset.cfg.bpMaxXfer < 65 ∧ (17 ≤ State.reset.cfg.bpMaxXfer ∧ 0x8000 < ((0x7FF0 : Word) &&& 0x7FFF).toNat + 17) ∧
    ([] : List Byte).length = 0 ∧ State.reset.cfg.bpMaxXfer < (zeros 65).length ∧
    (1 ≤ (zeros 2).length ∧ (zeros 2).length ≤ State.reset.cfg.bpMaxXfer ∧
      0x8000 < ((0x7FFF : Word) &&& 0x7FFF).toNat + (zeros 2).length) := by decide

/-- TXCTL with the shortest and the longest body. -/
theorem witness_TxctlResult :
    ∀ n ∈ [16, 2035], ∃ (s : State) (body : List Byte) (st : Word) (rest : List Answer),
      body.length = n ∧ s.lock = false ∧ hasCredit s.seq s.creditMax = true ∧ 16 ≤ body.length ∧
      roundup4 (12 + body.length) ≤ s.cfg.ioctlBufSize ∧ 12 + body.length ≤ s.cfg.busMaxXfer ∧
      s.answers = reply s.cfg [] st :: rest := by
  intro n h
  refine ⟨credited [written], zeros n, 0x20, [], zeros_length n, rfl, by decide, ?_, ?_, ?_, rfl⟩ <;>
    rw [zeros_length] <;> revert n <;> decide

/-- TXDATA with the shortest and the longest frame, on the last interface. -/
theorem witness_TxdataResult :
    ∀ n ∈ [1, 2029], ∃ (s : State) (iface : Nat) (frame : List Byte) (st : Word) (rest : List Answer),
      frame.length = n ∧ s.lock = false ∧ hasCredit s.seq s.creditMax = true ∧ iface ≤ s.cfg.ifaceMax ∧
      1 ≤ frame.length ∧ 18 + frame.length ≤ s.cfg.busMaxXfer ∧ s.answers = reply s.cfg [] st :: rest := by
  intro n h
  refine ⟨credited [written], 2, zeros n, 0x20, [], zeros_length n, rfl, by decide, by decide, ?_, ?_, rfl⟩ <;>
    rw [zeros_length] <;> revert n <;> decide

/-- Each clause of the refusals of the two senders, at the boundaries; `small` is a legal configuration. -/
theorem witness_TransmitRefusals :
    let small : Config := { Config.suggested with ioctlBufSize := 28 }
    State.reset.lock = false ∧
    (State.reset.cfg.busMaxXfer < 12 + (zeros 2036).length ∧
      ¬ ((zeros 2036).length < 16 ∨ State.reset.cfg.ioctlBufSize < roundup4 (12 + (zeros 2036).length))) ∧
    (State.reset.cfg.busMaxXfer < 12 + (zeros 2037).length ∧
      State.reset.cfg.ioctlBufSize < roundup4 (12 + (zeros 2037).length)) ∧
    (12 + (zeros 15).length ≤ State.reset.cfg.busMaxXfer ∧ (zeros 15).length < 16) ∧
    (small.wf = true ∧ 12 + (zeros 17).length ≤ small.busMaxXfer ∧ small.ioctlBufSize < roundup4 (12 + (zeros 17).length)) ∧
    State.reset.cfg.ifaceMax < 3 ∧ 2 ≤ State.reset.cfg.ifaceMax ∧ ([] : List Byte).length = 0 ∧
    State.reset.cfg.busMaxXfer < 18 + (zeros 2030).length := by
  simp only [zeros_length]
  decide

/-- The clause of frameAndSend, on the channels beside those transmitted on. -/
theorem witness_TransmitRefusals_channel :
    ∀ channelType ∈ ([1, 3, 255] : List Byte), ∃ (s : State) (body : List Byte) (ifaceByte : Byte) (rest : List Request),
      s.lock = false ∧ s.cfg.wf = true ∧ body.length < 65536 ∧
      s.requests = ⟨.pseudo, 0 :: channelType :: ifaceByte :: (le16 (BitVec.ofNat 16 body.length) ++ body)⟩ :: rest ∧
      channelType ≠ 0 ∧ channelType ≠ 2 := by
  intro c h
  refine ⟨State.reset.submit ⟨.pseudo, [0, c, 0, 1, 0, 7]⟩, [7], 0, [], rfl, test_suggested_wf, by decide, rfl, ?_, ?_⟩ <;>
    revert c <;> decide

/-- The answer to a poll that finds nothing, to one that is unavailable, and to one whose WLAN function is not ready. -/
def mute : PollAnswers := .one silent.1 silent.2
@[inherit_doc mute] def unavailable : PollAnswers := .one [0x20, 0, 0, 0] 1
@[inherit_doc mute] def notReady : PollAnswers := .one [0x20, 0, 0, 0] 0x4100

/-- A poll that finds `b`, and one that loses it, because the packet read is unavailable. -/
def found (b : List Byte) : PollAnswers := .two (brings b)
@[inherit_doc found] def lost (b : List Byte) : Poll := { brings b with status := 0x21 }

/-- Three rounds of a wait, of every outcome it absorbs: no packet; packets lost or dropped; a packet rejected, one delivered
and a response nothing waits for. -/
def rounds : List (List PollAnswers) :=
  [[mute, unavailable, notReady], [.two (lost packetA), found (zeros 12), found packetMalformed],
    [found packetUnknown, found packetA, found packetControl], [found packetX5, found packetEvent, found packetBadEvent]]

/-- The instructions that send a frame, each with operands that pass its checks; the last four are the ioctl operations. -/
def asks : List Instr := [.ioctlset 2 1 [7], .ioctlget 2 2 [1, 2], .iovarset [0x61] 0 [8], .iovarget [0x61] 1]
@[inherit_doc asks] def sends : List Instr := [.txctl (zeros 16), .txdata 0 [1]] ++ asks

/-- The credit wait uses up its retries: none of the credits in `rounds` is ahead of 100 (Program 4). -/
theorem witness_CreditTimeout :
    ∀ as ∈ rounds, ∀ i ∈ sends, ∃ (s : State) (rest : List Answer),
      s.lock = false ∧ sendPasses s.cfg i = true ∧ as.length = s.cfg.creditRetries ∧
      s.answers = answersOf s.cfg as ++ rest ∧ (s.prepared i).creditRounds as = true ∧
      hasCredit (as.foldl State.creditRound (s.prepared i)).seq (as.foldl State.creditRound (s.prepared i)).creditMax =
        false := by
  intro as has i hi
  refine ⟨{ told (answersOf Config.suggested as) with seq := 100, creditMax := 100, cbSet := true }, [], rfl, ?_, ?_,
    (List.append_nil _).symm, ?_, ?_⟩ <;> revert i <;> revert as <;> decide

/-- Credit from a control, a data, an event packet, and from an unknown channel after a silent poll. -/
def arrivals : List (List PollAnswers) :=
  [[found packetControl], [found packetA], [found packetEvent], [mute, found packetUnknown]]

/-- TXCTL and TXDATA. -/
theorem witness_CreditArrives :
    ∀ as ∈ arrivals, ∀ i ∈ sends.take 2, ∃ (s : State) (st : Word) (rest : List Answer),
      s.lock = false ∧ sendPasses s.cfg i = true ∧ as.length ≤ s.cfg.creditRetries ∧
      (s.prepared i).creditRounds as = true ∧
      hasCredit (as.foldl State.creditRound (s.prepared i)).seq (as.foldl State.creditRound (s.prepared i)).creditMax = true ∧
      ((∃ body, i = .txctl body) ∨ ∃ iface frame, i = .txdata iface frame) ∧
      s.answers = answersOf s.cfg as ++ reply s.cfg [] st :: rest := by
  intro as has i hi
  refine ⟨told (answersOf Config.suggested as ++ [written]), 0x20, [], rfl, ?_, ?_, ?_, ?_, ?_, rfl⟩
  case refine_5 =>
    simp only [sends, List.take, List.cons_append, List.mem_cons, List.not_mem_nil, or_false] at hi
    exact hi.imp (fun h => ⟨_, h⟩) (fun h => ⟨_, _, h⟩)
  all_goals
    revert i
    revert as
    decide +kernel

/-- The ioctl operations: the rounds of the credit wait, those of the response wait, the status of the response. -/
theorem witness_CreditArrives_ioctl :
    ∀ c ∈ ([([found packetControl], [], 0), ([found packetA], [found packetControl, notReady], 0),
        ([mute, found packetEvent], [], 0xFFFFFFFD)] : List (List PollAnswers × List PollAnswers × Word)), ∀ i ∈ asks,
      ∃ (s : State) (q : Poll) (st : Word) (rest : List Answer),
        let after := c.1.foldl State.creditRound (s.prepared i)
        s.lock = false ∧ ioctlPasses s.cfg i = true ∧ c.1.length ≤ s.cfg.creditRetries ∧
        (s.prepared i).creditRounds c.1 = true ∧ hasCredit after.seq after.creditMax = true ∧
        s.answers = answersOf s.cfg c.1 ++ reply s.cfg [] st :: (answersOf s.cfg c.2.1 ++ (q.answers s.cfg ++ rest)) ∧
        c.2.1.length < s.cfg.ioctlRetries ∧ (after.transmitted st i).ioctlRounds c.2.1 = true ∧
        q.finds s.cfg = true ∧ respondsTo (s.ioctlId + 1) (q.packet s.cfg) = true ∧
        (cdcOf (q.packet s.cfg)).status = c.2.2 := by
  intro c hc i hi
  refine ⟨{ told (answersOf Config.suggested c.1 ++ written :: (answersOf Config.suggested c.2.1 ++
      polled (response 0x00050000 c.2.2))) with ioctlId := 4 }, brings (response 0x00050000 c.2.2), 0x20, [], rfl, ?_, ?_, ?_,
    ?_, by simp only [List.append_nil]; rfl, ?_, ?_, ?_, ?_, ?_⟩
  all_goals
    revert i
    revert c
    decide +kernel

theorem witness_NoFrameWithoutCredit :
    ∃ (s t u : State), exec (.txctl (zeros 16)) s = .next t ∧ exec (.txdata 0 [1]) s = .next u ∧ t.seq = s.seq + 1 ∧
      u.seq = s.seq + 1 :=
  ⟨credited [written], _, _, rfl, rfl, by decide, by decide⟩

/-- A response with status 0, and one with another status. -/
theorem witness_IoctlResults :
    ∀ status ∈ ([0, 0xFFFFFFFD] : List Word),
      ∃ (s : State) (cmd : Word) (iface : Nat) (data : List Byte) (st : Word) (p : Poll) (rest : List Answer),
        s.lock = false ∧ hasCredit s.seq s.creditMax = true ∧ s.cfg.ioctlRetries ≠ 0 ∧
        requestFits s.cfg cmd iface data.length = true ∧ p.finds s.cfg = true ∧
        respondsTo (s.ioctlId + 1) (p.packet s.cfg) = true ∧
        s.answers = reply s.cfg [] st :: (p.answers s.cfg ++ rest) ∧ (cdcOf (p.packet s.cfg)).status = status := by
  intro status h
  simp only [List.mem_cons, List.not_mem_nil, or_false] at h
  obtain rfl | rfl := h
  · exact ⟨asking (answers1 (response 0x00050000 0)), 2, 2, [1], 0x20, brings (response 0x00050000 0), [], by decide⟩
  · exact ⟨asking (answers1 (response 0x00050000 0xFFFFFFFD)), 2, 2, [1], 0x20,
      brings (response 0x00050000 0xFFFFFFFD), [], by decide⟩

theorem witness_IovarsetResult :
    ∀ status ∈ ([0, 0xFFFFFFFD] : List Word),
    ∃ (s : State) (name : List Byte) (iface : Nat) (value : List Byte) (st : Word) (p : Poll) (rest : List Answer),
      s.lock = false ∧ hasCredit s.seq s.creditMax = true ∧ s.cfg.ioctlRetries ≠ 0 ∧ nameFits name = true ∧
      requestFits s.cfg s.cfg.wlcSetVar iface (name ++ [0] ++ value).length = true ∧
      (name ++ [0] ++ value).length ≤ s.cfg.iovarBufSize ∧ p.finds s.cfg = true ∧
      respondsTo (s.ioctlId + 1) (p.packet s.cfg) = true ∧ (cdcOf (p.packet s.cfg)).status = status ∧
      s.answers = reply s.cfg [] st :: (p.answers s.cfg ++ rest) := by
  intro status h
  simp only [List.mem_cons, List.not_mem_nil, or_false] at h
  obtain rfl | rfl := h
  · exact ⟨asking (answers1 (response 0x00050000 0)), [0x61], 0, [8], 0x20, brings (response 0x00050000 0), [], by decide⟩
  · exact ⟨asking (answers1 (response 0x00050000 0xFFFFFFFD)), [0x61], 0, [8], 0x20,
      brings (response 0x00050000 0xFFFFFFFD), [], by decide⟩

theorem witness_IovargetResult :
    ∀ status ∈ ([0, 0xFFFFFFFD] : List Word),
    ∃ (s : State) (name : List Byte) (iface : Nat) (st : Word) (p : Poll) (rest : List Answer),
      s.lock = false ∧ hasCredit s.seq s.creditMax = true ∧ s.cfg.ioctlRetries ≠ 0 ∧ nameFits name = true ∧
      requestFits s.cfg s.cfg.wlcGetVar iface (name ++ [0]).length = true ∧
      (name ++ [0]).length ≤ s.cfg.iovarBufSize ∧ p.finds s.cfg = true ∧
      respondsTo (s.ioctlId + 1) (p.packet s.cfg) = true ∧ (cdcOf (p.packet s.cfg)).status = status ∧
      s.answers = reply s.cfg [] st :: (p.answers s.cfg ++ rest) := by
  intro status h
  simp only [List.mem_cons, List.not_mem_nil, or_false] at h
  obtain rfl | rfl := h
  · exact ⟨asking (answers1 (response 0x00050000 0)), [0x61], 0, 0x20, brings (response 0x00050000 0), [], by decide⟩
  · exact ⟨asking (answers1 (response 0x00050000 0xFFFFFFFD)), [0x61], 0, 0x20,
      brings (response 0x00050000 0xFFFFFFFD), [], by decide⟩

/-- Each clause of the refusals of the ioctl operations; the states differ in their configuration, which is legal. -/
theorem witness_IoctlRefusals :
    let few : Config := { Config.suggested with cmdValid := .only [262, 263] }
    let small : Config := { Config.suggested with ioctlBufSize := 28 }
    few.wf = true ∧ small.wf = true ∧
    few.ifaceMax < 3 ∧ (2 ≤ few.ifaceMax ∧ few.cmdValid.valid 1 = false) ∧
    (few.cmdValid.valid 262 = true ∧ few.busMaxXfer < 28 + (zeros 2020).length) ∧
    (28 + (zeros 1).length ≤ small.busMaxXfer ∧ small.ioctlBufSize < roundup4 (28 + (zeros 1).length)) := by
  simp only [zeros_length]
  decide

/-- Each clause of the refusals of the iovar operations: a name with a NUL, then, of each operation, a form longer than
`iovar_buf`, an interface too high, an invalid command, a request longer than a transfer, one longer than `ioctl_buf`. (A
legal configuration has both iovar commands valid; the statement is about every state.) -/
theorem witness_IoctlRefusals_iovar :
    let cfg := Config.suggested
    let none' : Config := { cfg with cmdValid := .only [] }
    let tiny : Config := { cfg with iovarBufSize := 4 }
    let small : Config := { cfg with ioctlBufSize := 28 }
    cfg.wf = true ∧ tiny.wf = true ∧ small.wf = true ∧
    (0 : Byte) ∈ ([0x61, 0] : List Byte) ∧ ¬ (([0x61] : List Byte) = [] ∨ (0 : Byte) ∈ ([0x61] : List Byte)) ∧
    tiny.iovarBufSize < 4 + 1 ∧ (1 + 1 ≤ cfg.iovarBufSize ∧ cfg.ifaceMax < 3 ∧ 2 ≤ cfg.ifaceMax) ∧
    (none'.cmdValid.valid none'.wlcSetVar = false ∧ none'.cmdValid.valid none'.wlcGetVar = false) ∧
    ((cfg.cmdValid.valid cfg.wlcSetVar = true ∧ cfg.cmdValid.valid cfg.wlcGetVar = true) ∧
      2019 + 1 ≤ cfg.iovarBufSize ∧ cfg.busMaxXfer < 28 + (2019 + 1)) ∧
    ((small.cmdValid.valid small.wlcSetVar = true ∧ small.cmdValid.valid small.wlcGetVar = true) ∧
      1 + 1 ≤ small.iovarBufSize ∧ 28 + (1 + 1) ≤ small.busMaxXfer ∧ small.ioctlBufSize < roundup4 (28 + (1 + 1))) := by
  decide

theorem witness_IoctlWrongId :
    ∀ i ∈ asks, ∃ (s : State) (st : Word) (p q : Poll) (rest : List Answer),
      s.lock = false ∧ hasCredit s.seq s.creditMax = true ∧ 2 ≤ s.cfg.ioctlRetries ∧ ioctlPasses s.cfg i = true ∧
      p.finds s.cfg = true ∧ controlPacket (p.packet s.cfg) = true ∧
      idOf (cdcOf (p.packet s.cfg)).flags ≠ s.ioctlId + 1 ∧
      q.finds s.cfg = true ∧ respondsTo (s.ioctlId + 1) (q.packet s.cfg) = true ∧
      (cdcOf (q.packet s.cfg)).status = 0 ∧
      s.answers = reply s.cfg [] st :: (p.answers s.cfg ++ (q.answers s.cfg ++ rest)) := by
  intro i h
  refine ⟨asking (written :: (polled (response 0x00040000 0) ++ polled (response 0x00050000 0))), 0x20,
    brings (response 0x00040000 0), brings (response 0x00050000 0), [], rfl, by decide, by decide, ?_, by decide⟩
  revert i
  decide

theorem witness_IoctlTimeout :
    ∀ as ∈ rounds, ∀ i ∈ asks, ∃ (s : State) (st : Word) (rest : List Answer),
      s.lock = false ∧ hasCredit s.seq s.creditMax = true ∧ as.length = s.cfg.ioctlRetries ∧
      ioctlPasses s.cfg i = true ∧ (s.asked st i).ioctlRounds as = true ∧
      s.answers = reply s.cfg [] st :: (answersOf s.cfg as ++ rest) := by
  intro as has i hi
  refine ⟨credited (written :: answersOf Config.suggested as), 0x20, [], rfl, (by decide : hasCredit 0 1 = true), ?_, ?_, ?_,
    by simp only [List.append_nil]; rfl⟩ <;> revert i <;> revert as <;> decide

/-- A refused request, and one whose send fails, for IOCTLSET. -/
theorem witness_RequestsConsumeIds :
    ∃ (s t u : State), exec (.ioctlset 2 3 []) s = .next t ∧ exec (.ioctlset 2 0 []) s = .next u ∧
      t.ioctlId = s.ioctlId ∧ u.ioctlId = s.ioctlId + 1 ∧ u.seq = s.seq + 1 :=
  ⟨credited [.fail], _, _, rfl, rfl, by decide, by decide, by decide⟩

theorem witness_BuspollPacket :
    ∃ (s : State) (p : Poll) (rest : List Answer),
      s.lock = false ∧ p.finds s.cfg = true ∧ s.answers = p.answers s.cfg ++ rest :=
  ⟨told (polled packetA), brings packetA, [], by decide⟩

/-- Each clause of BUSPOLL's answers without a packet (section 2.8): unavailable, nothing, not ready, no length, too long; then
the packet read unavailable. (The same are POLLONCE's.) -/
theorem witness_BuspollNoPacket :
    let cfg : Config := { Config.suggested with rxBufSize := 1024 }
    let some20 : List Byte := [0x20, 0, 0, 0]
    some20.length = readLength 0 cfg.intStatusWidth ∧ (decStatus cfg 1).dataNa = true ∧
    (decStatus cfg 0x4100).dataNa = false ∧ irqValue cfg (zeros 4) &&& cfg.irqF2PacketAvailable = 0 ∧
    irqValue cfg some20 &&& cfg.irqF2PacketAvailable ≠ 0 ∧ (decStatus cfg 0x4100).f2Ready = false ∧
    ((decStatus cfg 0x120).f2Ready = true ∧ (decStatus cfg 0x120).pktLen = 0) ∧
    ((decStatus cfg 0x20).f2Ready = true ∧ (decStatus cfg 0x20).pktAvail = false) ∧
    ((decStatus cfg 0xFFF20).f2Ready = true ∧ (decStatus cfg 0xFFF20).pktAvail = true ∧
      (decStatus cfg 0xFFF20).pktLen ≠ 0 ∧ cfg.rxBufSize < (decStatus cfg 0xFFF20).pktLen) ∧
    (told [reply cfg some20 0xFFF20]).lock = false ∧
    ((lost packetA).reads Config.suggested = true ∧ (decStatus Config.suggested (lost packetA).status).dataNa = true ∧
      (told ((lost packetA).answers Config.suggested)).answers = (lost packetA).answers Config.suggested ++ []) := by decide

theorem witness_RxoneControl :
    ∃ (s : State) (len : Nat), s.lock = false ∧ len ≤ s.cfg.rxBufSize ∧ controlPacket (s.bufSlice .rx 0 len) = true :=
  ⟨holding packetControl, 28, by decide⟩

/-- A data packet (X13), a valid event (X19), an event with a wrong marker (X21). -/
theorem witness_RxoneDataAndEvent :
    (holding packetA).lock = false ∧ 16 ≤ (holding packetA).cfg.rxBufSize ∧
    bdcPacket 2 ((holding packetA).bufSlice .rx 0 16) = true ∧
    (bdcPacket 1 ((holding packetEvent).bufSlice .rx 0 38) = true ∧
      marked Config.suggested (bdcPayloadOf ((holding packetEvent).bufSlice .rx 0 38))) ∧
    (bdcPacket 1 ((holding packetBadEvent).bufSlice .rx 0 38) = true ∧
      ¬ marked Config.suggested (bdcPayloadOf ((holding packetBadEvent).bufSlice .rx 0 38))) := by decide

/-- Each clause of RXONE's errors: X1, X3, X4, X6, X5, X17, X7, X12, X14. -/
theorem witness_RxoneRejects :
    let s (b : List Byte) := holding b
    let slice (b : List Byte) := (s b).bufSlice .rx 0 b.length
    let h (b : List Byte) := headerOf (slice b)
    (s []).lock = false ∧ (s []).cfg.rxBufSize < 2049 ∧ (zeros 11).length < 12 ∧
    (12 ≤ (zeros 12).length ∧ (h (zeros 12)).size ≠ ~~~(h (zeros 12)).sizeCom) ∧
    ((h packetX4).size = ~~~(h packetX4).sizeCom ∧ (h packetX4).headerLength.toNat < 12) ∧
    ((h packetX6).size = ~~~(h packetX6).sizeCom ∧ 12 ≤ (h packetX6).headerLength.toNat ∧ (h packetX6).size.toNat < 12) ∧
    ((h packetX5).size = ~~~(h packetX5).sizeCom ∧ 12 ≤ (h packetX5).headerLength.toNat ∧ packetX5.length < (h packetX5).size.toNat) ∧
    (framed (slice packetUnknown) = true ∧ 3 ≤ (h packetUnknown).chanFlags.toNat % 16) ∧
    (framed (slice packetX7) = true ∧ (h packetX7).chanFlags.toNat % 16 = 0 ∧ frameSize (slice packetX7) < subHeader (slice packetX7) + 16) ∧
    (framed (slice packetX12) = true ∧ (h packetX12).chanFlags.toNat % 16 = 2 ∧ frameSize (slice packetX12) < subHeader (slice packetX12) + 4) ∧
    (framed (slice packetMalformed) = true ∧ (h packetMalformed).chanFlags.toNat % 16 = 2 ∧
      subHeader (slice packetMalformed) + 4 ≤ frameSize (slice packetMalformed) ∧
      frameSize (slice packetMalformed) < bdcStart (slice packetMalformed)) := by decide

/-- A poll that finds the packet `b`. -/
theorem witness_finds :
    ∀ b ∈ [packetControl, packetA, packetEvent, packetBadEvent, packetMalformed, packetUnknown, zeros 12, zeros 11,
        packetX4, packetX5, packetX6, packetX7, packetX12],
      (brings b).finds Config.suggested = true ∧ (brings b).packet Config.suggested = b ∧
      (told (polled b)).answers = (brings b).answers (told (polled b)).cfg ++ [] ∧ (told (polled b)).lock = false ∧
      (told (polled b)).reentries = [] := by decide

/-- Each clause of PollonceDelivers, on those packets. -/
theorem witness_PollonceDelivers :
    controlPacket packetControl = true ∧ bdcPacket 2 packetA = true ∧
    (bdcPacket 1 packetEvent = true ∧ marked Config.suggested (bdcPayloadOf packetEvent)) ∧
    State.reset.cbSet = false ∧ ({ State.reset with cbSet := true } : State).cbSet = true := by decide

/-- Each clause of PollonceDrops on a packet, the polls without one being those of witness_BuspollNoPacket: too short, a bad
complement, a short header, the two size bounds, an unknown channel, the two sub-headers, a bad data offset, a bad event. -/
theorem witness_PollonceDrops :
    let h (b : List Byte) := headerOf b
    (zeros 11).length < 12 ∧ (12 ≤ (zeros 12).length ∧ (h (zeros 12)).size ≠ ~~~(h (zeros 12)).sizeCom) ∧
    (12 ≤ packetX4.length ∧ (h packetX4).size = ~~~(h packetX4).sizeCom ∧ (h packetX4).headerLength.toNat < 12) ∧
    (12 ≤ packetX6.length ∧ (h packetX6).size = ~~~(h packetX6).sizeCom ∧ 12 ≤ (h packetX6).headerLength.toNat ∧
      (h packetX6).size.toNat < 12) ∧
    (12 ≤ packetX5.length ∧ (h packetX5).size = ~~~(h packetX5).sizeCom ∧ 12 ≤ (h packetX5).headerLength.toNat ∧
      packetX5.length < (h packetX5).size.toNat) ∧
    (framed packetUnknown = true ∧ 3 ≤ (h packetUnknown).chanFlags.toNat % 16) ∧
    (framed packetX7 = true ∧ (h packetX7).chanFlags.toNat % 16 = 0 ∧ frameSize packetX7 < subHeader packetX7 + 16) ∧
    (framed packetX12 = true ∧ (h packetX12).chanFlags.toNat % 16 = 2 ∧ frameSize packetX12 < subHeader packetX12 + 4) ∧
    (framed packetMalformed = true ∧ (h packetMalformed).chanFlags.toNat % 16 = 2 ∧
      subHeader packetMalformed + 4 ≤ frameSize packetMalformed ∧ frameSize packetMalformed < bdcStart packetMalformed) ∧
    (bdcPacket 1 packetBadEvent = true ∧ ¬ marked Config.suggested (bdcPayloadOf packetBadEvent)) := by decide

/-- A data packet and an event packet: POLLONCE. -/
theorem witness_ReentryIsStuck :
    ∀ b ∈ [packetA, packetEvent], ∃ (s : State) (p : Poll) (e : PortEvent) (rest : List Answer) (more : List Bool),
      s.lock = false ∧ p.finds s.cfg = true ∧ p.packet s.cfg = b ∧ s.answers = p.answers s.cfg ++ rest ∧
      delivery s.cfg s.cbSet (p.packet s.cfg) = some e ∧ s.reentries = true :: more := by
  intro b hb
  refine ⟨{ told (polled b) with cbSet := true, reentries := [true] }, brings b,
    (if b = packetA then .deliverEth (bdcPayloadOf b) else .deliverEvt (bdcPayloadOf b)), [], [], rfl, ?_, ?_,
    (List.append_nil _).symm, ?_, rfl⟩ <;> revert b <;> decide

/-- The same packets in the credit wait of each sender, at its first round and after a silent one. -/
theorem witness_ReentryIsStuck_credit :
    ∀ b ∈ [packetA, packetEvent], ∀ as ∈ [[], [mute]], ∀ i ∈ sends,
      ∃ (s : State) (p : Poll) (e : PortEvent) (rest : List Answer) (more : List Bool),
        let waiting := as.foldl State.creditRound (s.prepared i)
        s.lock = false ∧ p.finds s.cfg = true ∧ p.packet s.cfg = b ∧ sendPasses s.cfg i = true ∧
        s.answers = answersOf s.cfg as ++ (p.answers s.cfg ++ rest) ∧ as.length < s.cfg.creditRetries ∧
        (s.prepared i).creditRounds as = true ∧ hasCredit waiting.seq waiting.creditMax = false ∧
        delivery s.cfg waiting.cbSet (p.packet s.cfg) = some e ∧ waiting.reentries = true :: more := by
  intro b hb as has i hi
  refine ⟨{ told (answersOf Config.suggested as ++ polled b) with cbSet := true, reentries := [true] }, brings b,
    (if b = packetA then .deliverEth (bdcPayloadOf b) else .deliverEvt (bdcPayloadOf b)), [], [], rfl, ?_, ?_, ?_,
    by simp only [List.append_nil]; rfl, ?_, ?_, ?_, ?_, ?_⟩
  all_goals
    revert i
    revert as
    revert b
    decide

/-- The same in the response wait of each ioctl operation. -/
theorem witness_ReentryIsStuck_response :
    ∀ b ∈ [packetA, packetEvent], ∀ as ∈ [[], [found packetControl]], ∀ i ∈ asks,
      ∃ (s : State) (p : Poll) (e : PortEvent) (st : Word) (rest : List Answer) (more : List Bool),
        let waiting := as.foldl State.ioctlRound (s.asked st i)
        s.lock = false ∧ p.finds s.cfg = true ∧ p.packet s.cfg = b ∧ ioctlPasses s.cfg i = true ∧
        hasCredit s.seq s.creditMax = true ∧
        s.answers = reply s.cfg [] st :: (answersOf s.cfg as ++ (p.answers s.cfg ++ rest)) ∧
        as.length < s.cfg.ioctlRetries ∧ (s.asked st i).ioctlRounds as = true ∧
        delivery s.cfg waiting.cbSet (p.packet s.cfg) = some e ∧ waiting.reentries = true :: more := by
  intro b hb as has i hi
  refine ⟨{ credited (written :: (answersOf Config.suggested as ++ polled b)) with cbSet := true, reentries := [true] },
    brings b, (if b = packetA then .deliverEth (bdcPayloadOf b) else .deliverEvt (bdcPayloadOf b)), 0x20, [], [], rfl, ?_, ?_,
    ?_, (by decide : hasCredit 0 1 = true), by simp only [List.append_nil]; rfl, ?_, ?_, ?_, ?_⟩
  all_goals
    revert i
    revert as
    revert b
    decide

/-- The SDPCM rows: X8, X19, X21 and X11 as frames. -/
theorem witness_SdpcmRowsReceive :
    let frame (f : SdpcmForm) (chan : BitVec 4) (rest : List Byte) := encSdpcm (f.header chan) ++ rest
    let ev : SdpcmForm := ⟨0x26, 0xFFD9, 0, 0, 0, 12, 0, 7, 0⟩
    let good : List Byte := zeros 16 ++ [0x88, 0x6C, 0, 0, 0, 0, 0, 0, 0x10, 0x18]
    12 + good.length ≤ State.reset.cfg.busMaxXfer ∧ 12 + good.length ≤ State.reset.cfg.rxBufSize ∧
    controlPacket (frame ⟨0x1C, 0xFFE3, 0, 0, 0, 12, 0, 7, 0⟩ 0 (zeros 16)) = true ∧
    (bdcPacket 1 (frame ev 1 good) = true ∧ marked Config.suggested (bdcPayloadOf (frame ev 1 good))) ∧
    (bdcPacket 1 (frame ev 1 (zeros 26)) = true ∧ ¬ marked Config.suggested (bdcPayloadOf (frame ev 1 (zeros 26)))) ∧
    bdcPacket 2 (frame ⟨0x10, 0xFFEF, 0, 0, 0, 12, 0, 7, 0⟩ 2 (zeros 4)) = true := by decide

theorem witness_SdpcmUnknownRows :
    State.reset.lock = false ∧ 12 + ([] : List Byte).length ≤ State.reset.cfg.busMaxXfer ∧
    12 + ([] : List Byte).length ≤ State.reset.cfg.rxBufSize ∧
    ∀ chan ∈ [3, 4, 5, 6, 7, 8, 9, 10, 11, 12, 13, 14, 15],
      framed (encSdpcm ((⟨0x0C, 0xFFF3, 0, 0, 0, 12, 0, 0x80, 0⟩ : SdpcmForm).header (BitVec.ofNat 4 chan)) ++ []) = true := by
  decide

end Sys2Proof.Tests
end

section
/-! PROOFS. What every step keeps (spec/00_scope.md R4, R7; spec/10_state.md R22, R27 to R29, R34, R44): the induction over
the parts of a step, said once, and the statements that follow from it. -/

namespace Sys2Proof.Machine

/-! ### The induction over a step -/

/-- RESET waits, or runs whole: acquire, the writes of R293, release. -/
theorem exec_reset_cases {s t : State} (h : exec .reset s = .next t) :
    (s.lock = true ∧ t = s) ∨ (s.lock = false ∧ t = (s.acquire .reset).zeroed.release (.ok .unit)) :=
  operation_ends (fun t => (s.lock = true ∧ t = s) ∨
    (s.lock = false ∧ t = (s.acquire .reset).zeroed.release (.ok .unit))) h (fun hl => .inl ⟨hl, rfl⟩)
    fun hl => ends_update_bind (ends_pure (.inr ⟨hl, rfl⟩))

/-- Everything a step is made of keeps `P`: taking a submission, acquire, the moves of the engine's procedures, what RESET
writes, release. -/
structure KeptByParts (P : State → Prop) : Prop where
  request : ∀ {s : State} (rest : List Request), P s → P { s with requests := rest }
  acquire : ∀ {s : State} (i : Instr), P s → P (s.acquire i)
  move : ∀ {s t : State}, Move s t → P s → P t
  zeroed : ∀ {s : State}, P s → P s.zeroed
  release : ∀ {s : State} (r : Result), P s → P (s.release r)

section
variable {P : State → Prop} {s t : State}

theorem KeptByParts.moves (hP : KeptByParts P) (h : Moves s t) (hs : P s) : P t := by
  induction h with
  | refl => exact hs
  | tail _ h ih => exact hP.move h ih

theorem KeptByParts.exec {i : Instr} (hP : KeptByParts P) (h : exec i s = .next t) (hs : P s) : P t := by
  by_cases hi : i = .reset
  · subst hi
    obtain ⟨-, rfl⟩ | ⟨-, rfl⟩ := exec_reset_cases h
    · exact hs
    · exact hP.release _ (hP.zeroed (hP.acquire _ hs))
  · obtain ⟨-, rfl⟩ | ⟨-, u, hu, rfl | ⟨r, rfl⟩⟩ := exec_moves hi h
    · exact hs
    · exact hP.moves hu (hP.acquire _ hs)
    · exact hP.release _ (hP.moves hu (hP.acquire _ hs))

theorem KeptByParts.step (hP : KeptByParts P) (h : step s = .next t) (hs : P s) : P t := by
  obtain ⟨-, rfl | ⟨-, r, rest, -, ⟨which, rfl⟩ | ⟨i, -, hi⟩⟩⟩ := step_cases h
  · exact hs
  · exact hP.release _ (hP.request rest hs)
  · exact hP.exec hi (hP.request rest hs)

/-! ### The invariant -/

theorem windowOf_aligned (a : Word) : windowOf a &&& 0x7FFF = 0 := by
  rw [windowOf, BitVec.and_assoc, show (0xFFFF8000 &&& 0x7FFF : Word) = 0 by decide]
  exact BitVec.and_zero

/-- One more visible step does not change whether an operation runs (R34). -/
theorem lockMatchesPhase_of_tick (hl : t.lock = s.lock) (hp : t.phase = s.phase ∨ t.phase = s.phase.tick) :
    t.lockMatchesPhase = s.lockMatchesPhase := by
  unfold State.lockMatchesPhase
  rcases hp with hp | hp <;> rw [hp, hl]
  cases s.phase <;> rfl

theorem bufferOk_congr {b : Buffer} (hc : t.cfg = s.cfg) (hb : t.buffer b = s.buffer b) :
    t.bufferOk b = s.bufferOk b := by
  rw [State.bufferOk, State.bufferOk, hb]
  cases b <;> simp only [State.bufferSize, hc]

/-- The invariant speaks of the configuration, the window, the lock, the phase and the buffers alone. -/
theorem State.Inv.of_frame (h : s.Inv)
    (hf : (t.cfg, t.win, t.lock, t.ioctlBuf, t.iovarBuf, t.rxBuf) =
      (s.cfg, s.win, s.lock, s.ioctlBuf, s.iovarBuf, s.rxBuf))
    (hp : t.phase = s.phase ∨ t.phase = s.phase.tick) : t.Inv := by
  obtain ⟨hc, hw, hl, h1, h2, h3⟩ : t.cfg = s.cfg ∧ t.win = s.win ∧ t.lock = s.lock ∧ t.ioctlBuf = s.ioctlBuf ∧
      t.iovarBuf = s.iovarBuf ∧ t.rxBuf = s.rxBuf := by simpa only [Prod.mk.injEq] using hf
  exact {
    cfg := hc ▸ h.cfg
    window := by rw [State.windowAligned, hw]; exact h.window
    phase := (lockMatchesPhase_of_tick hl hp).trans h.phase
    ioctl := (bufferOk_congr (b := .ioctl) hc h1).trans h.ioctl
    iovar := (bufferOk_congr (b := .iovar) hc h2).trans h.iovar
    rx := (bufferOk_congr (b := .rx) hc h3).trans h.rx }

/-- A store that fits its buffer keeps all three buffers canonical and inside their sizes (R27 to R29). -/
theorem bufferOk_storeBuffer {b : Buffer} {bs : List Byte} (c : Buffer) (h : s.bufferOk c = true)
    (hb : bs.length ≤ s.bufferSize b) : (s.storeBuffer b bs).bufferOk c = true := by
  have hc : (s.storeBuffer b bs).cfg = s.cfg := by cases b <;> rfl
  by_cases hcb : c = b
  · subst hcb
    have hs : (s.storeBuffer c bs).bufferSize c = s.bufferSize c := by cases c <;> rfl
    simp only [State.bufferOk, Bool.and_eq_true] at h
    rw [State.bufferOk, State.storeBuffer_buffer, hs, Memory.wf_write h.1,
      Memory.within_write h.2 (by omega), Bool.and_self]
  · exact (bufferOk_congr hc (State.storeBuffer_buffer_ne hcb)).trans h

theorem State.Inv.storeBuffer (h : s.Inv) {b : Buffer} {bs : List Byte} (hb : bs.length ≤ s.bufferSize b) :
    (s.storeBuffer b bs).Inv where
  cfg := by cases b <;> exact h.cfg
  window := by cases b <;> exact h.window
  phase := by cases b <;> exact h.phase
  ioctl := bufferOk_storeBuffer _ h.ioctl hb
  iovar := bufferOk_storeBuffer _ h.iovar hb
  rx := bufferOk_storeBuffer _ h.rx hb

theorem PollMove.keeps_inv (hm : PollMove s t) (h : s.Inv) : t.Inv := by
  cases hm with
  | read | readFail => exact h.of_frame (by simp) (.inr (by simp))
  | emit | delivered => exact h.of_frame rfl (.inr rfl)
  | flags | credit => exact h.of_frame rfl (.inl rfl)
  | store bs hb => exact h.storeBuffer (b := .rx) hb

theorem Move.keeps_inv (hm : Move s t) (h : s.Inv) : t.Inv := by
  cases hm with
  | poll hm => exact hm.keeps_inv h
  | write | writeFail => exact h.of_frame (by simp) (.inr (by simp))
  | store b bs hb => exact h.storeBuffer hb
  | seq | ioctlId | status | callback | invalid => exact h.of_frame rfl (.inl rfl)
  | window a => exact { h with window := beq_iff_eq.2 (windowOf_aligned a) }

theorem inv_keptByParts : KeptByParts State.Inv where
  request _ h := h.of_frame rfl (.inl rfl)
  acquire _ h := { h with phase := rfl }
  move := Move.keeps_inv
  zeroed h := { h with window := (by decide : ((0 : Word) &&& 0x7FFF == 0) = true) }
  release _ h := { h with phase := rfl }

/-! ### The configuration and the trace -/

/-- `t` has the configuration of `s`, and all that the ports had seen in `s` (R4, R44). -/
def State.Extends (t s : State) : Prop := t.cfg = s.cfg ∧ s.trace <+: t.trace

theorem PollMove.trace_prefix (h : PollMove s t) : s.trace <+: t.trace := by
  cases h <;> simp

theorem Move.trace_prefix (h : Move s t) : s.trace <+: t.trace := by
  cases h with
  | poll h => exact h.trace_prefix
  | store b => cases b <;> exact List.prefix_rfl
  | _ => simp

theorem extends_keptByParts (s : State) : KeptByParts (State.Extends · s) where
  request _ h := h
  acquire _ h := h
  move hm h := ⟨hm.cfg_eq.trans h.1, h.2.trans hm.trace_prefix⟩
  zeroed h := h
  release _ h := h

end

/-! ### The obligations -/

/-- Settles O10: the power-on state's buffers are empty and its trace too. -/
theorem resetSatisfiesInvariant : Obligations.ResetSatisfiesInvariant := by
  have hbuf (b : Buffer) : State.reset.bufferOk b = true := by
    rw [State.bufferOk, State.reset_buffers_wf]
    cases b <;> rfl
  exact ⟨⟨by decide, by decide, rfl, hbuf _, hbuf _, hbuf _⟩, fun e he => absurd he List.not_mem_nil⟩

/-- Settles O11, by the induction over the parts of a step. -/
theorem stepKeepsInvariant : Obligations.StepKeepsInvariant :=
  fun _ _ hs h => inv_keptByParts.step h hs

/-- Settles O13, by the same induction. -/
theorem stepKeepsConfigAndTrace : Obligations.StepKeepsConfigAndTrace :=
  fun s _ h => (extends_keptByParts s).step h ⟨rfl, List.prefix_rfl⟩

end Sys2Proof.Machine
end

section
/-! PROOFS. Bus failures (spec/40_bus_transport.md R150; spec/60_exceptions.md R300): every procedure of the engine stops at
a failed transaction and tells which it was. -/

namespace Sys2Proof.Machine

/-! ### What is said of failed transactions -/

/-- From `s` to `t` no transaction has failed. -/
def NoFailure (s t : State) : Prop :=
  t.cfg = s.cfg ∧ ∃ es, t.trace = s.trace ++ es ∧ ∀ out, PortEvent.xfer out none ∉ es

/-- From `s` to `t` one transaction has failed, the last one, and it carried the command word `c`. -/
def LastFailed (c : Word) (s t : State) : Prop :=
  ∃ u tx, NoFailure s u ∧ t.trace = u.trace ++ [.xfer (ser32 s.cfg.wireOrder c ++ tx) none]

/-- No transaction has failed, or the last one has and the error `e` says so. -/
def FailureReported (e : Option Err) (s t : State) : Prop :=
  NoFailure s t ∨ ∃ c, e = some (.busFailure c) ∧ LastFailed c s t

/-- The error a procedure stops with. -/
def Stop.error : Stop → Option Err
  | .raise e => some e
  | .stuck => none

/-- The error handed over as a value (R307). -/
def attemptError {α : Type} : Except Err α → Option Err
  | .ok _ => none
  | .error e => some e

/-- The error of a poll's outcome (R276). -/
def PollOutcome.error : PollOutcome → Option Err
  | .err e => some e
  | .noPacket _ | .packet _ => none

section
variable {α β : Type} {s t u : State}

/-- Wherever `p` ends, a failed transaction is the last, and the error `p` stops with or answers says so. -/
def Reports (err : α → Option Err) (p : Proc α) : Prop :=
  ∀ s, Ends p s (fun a t => FailureReported (err a) s t) (fun e t => FailureReported e.error s t)

/-- `p` stops at a failed transaction. -/
abbrev StopsAtFailure (p : Proc α) : Prop := Reports (fun _ => none) p

/-- `p` does nothing but hand the error `e` on. -/
def HandsOn (err : α → Option Err) (e : Err) (p : Proc α) : Prop :=
  ∀ s, Ends p s (fun a t => t = s ∧ err a = some e) (fun x t => t = s ∧ x = .raise e)

/-! ### Rules -/

theorem NoFailure.of_trace (hc : t.cfg = s.cfg) (ht : t.trace = s.trace) : NoFailure s t :=
  ⟨hc, [], by simp [ht], fun _ => List.not_mem_nil⟩

theorem NoFailure.refl : NoFailure s s := .of_trace rfl rfl

theorem NoFailure.of_event {e : PortEvent} (he : ∀ out, e ≠ .xfer out none) (hc : t.cfg = s.cfg)
    (ht : t.trace = s.trace ++ [e]) : NoFailure s t :=
  ⟨hc, [e], ht, fun out h => he out (List.mem_singleton.1 h).symm⟩

theorem NoFailure.trans (h : NoFailure s t) (h' : NoFailure t u) : NoFailure s u := by
  obtain ⟨hc, es, ht, hes⟩ := h
  obtain ⟨hc', es', ht', hes'⟩ := h'
  refine ⟨hc'.trans hc, es ++ es', by rw [ht', ht, List.append_assoc], fun out hm => ?_⟩
  exact (List.mem_append.1 hm).elim (hes out) (hes' out)

theorem NoFailure.lastFailed {c : Word} (h : NoFailure s t) (h' : LastFailed c t u) : LastFailed c s u := by
  obtain ⟨v, tx, hv, ht⟩ := h'
  exact ⟨v, tx, h.trans hv, by rw [ht, h.1]⟩

theorem NoFailure.reported {e : Option Err} (h : NoFailure s t) (h' : FailureReported e t u) :
    FailureReported e s u :=
  h'.imp h.trans fun ⟨c, he, hc⟩ => ⟨c, he, h.lastFailed hc⟩

theorem failureReported_none : FailureReported none s t ↔ NoFailure s t := by
  simp [FailureReported]

theorem reports_pure {err : α → Option Err} (a : α) : Reports err (pure a) := fun _ => ends_pure (.inl .refl)

theorem reports_raise {err : α → Option Err} (e : Err) : Reports err (raise e) := fun _ => ends_raise (.inl .refl)

theorem reports_readState {err : State → Option Err} : Reports err readState := fun _ => ends_readState (.inl .refl)

theorem reports_update {f : State → State} (hf : ∀ s, NoFailure s (f s)) : StopsAtFailure (update f) :=
  fun s => ends_update (.inl (hf s))

theorem reports_guardArg {err : Unit → Option Err} (ok : Bool) (w : Argument) : Reports err (guardArg ok w) :=
  fun _ => ends_guardArg (fun _ => .inl .refl) (.inl .refl)

theorem reports_attempt {p : Proc α} (h : StopsAtFailure p) : Reports attemptError (attempt p) :=
  fun s => ends_attempt ((h s).mono (fun _ _ h => h) fun e _ h => by cases e <;> exact h)

/-- Sequence, where what follows hands on the bus failure that `p` has answered. -/
theorem reports_bind_handsOn {errA : α → Option Err} {errB : β → Option Err} {p : Proc α} {f : α → Proc β}
    (hp : Reports errA p) (hf : ∀ a, Reports errB (f a))
    (hc : ∀ a c, errA a = some (.busFailure c) → HandsOn errB (.busFailure c) (f a)) : Reports errB (p >>= f) := by
  refine fun s => Ends.bind (hp s) fun a t h => ?_
  obtain h | ⟨c, ha, h⟩ := h
  · exact (hf a t).mono (fun _ _ => h.reported) fun _ _ => h.reported
  · refine (hc a c ha t).mono ?_ ?_
    · rintro b _ ⟨rfl, hb⟩
      exact .inr ⟨c, hb, h⟩
    · rintro e _ ⟨rfl, rfl⟩
      exact .inr ⟨c, rfl, h⟩

/-- Sequence. -/
theorem reports_bind {err : β → Option Err} {p : Proc α} {f : α → Proc β} (hp : StopsAtFailure p)
    (hf : ∀ a, Reports err (f a)) : Reports err (p >>= f) :=
  reports_bind_handsOn hp hf fun _ _ h => nomatch h

theorem reports_ite {err : α → Option Err} {c : Prop} [Decidable c] {p q : Proc α} (hp : Reports err p)
    (hq : Reports err q) : Reports err (if c then p else q) := by
  split
  · exact hp
  · exact hq

theorem reports_readState_bind {err : β → Option Err} {f : State → Proc β} (hf : ∀ s, Reports err (f s)) :
    Reports err (readState >>= f) := reports_bind reports_readState hf

theorem handsOn_raise {err : α → Option Err} (e : Err) : HandsOn err e (raise e) := fun _ => ends_raise ⟨rfl, rfl⟩

theorem handsOn_pure {err : α → Option Err} {e : Err} {a : α} (h : err a = some e) : HandsOn err e (pure a) :=
  fun _ => ends_pure ⟨rfl, h⟩

/-! ### The bus primitives -/

/-- The one place where a transaction fails raises `BusFailure` with its command word (R150). -/
theorem txn_reports (cmd : Word) (tx : List Byte) (rxn : Nat) : StopsAtFailure (txn cmd tx rxn) := by
  refine fun s => (txn_ends cmd tx rxn s).mono ?_ ?_
  · rintro ⟨rx, st⟩ _ ⟨-, back, _, -, rfl, rfl⟩
    exact .inl (.of_event (e := .xfer (ser32 s.cfg.wireOrder cmd ++ tx) (some back)) (by simp) (by simp) (by simp))
  · rintro _ _ ⟨rfl, rfl⟩
    exact .inr ⟨cmd, rfl, s, tx, .refl, by simp⟩

theorem memRead_reports (fn : FnCode) (addr : BusAddr) (n : Nat) : StopsAtFailure (memRead fn addr n) :=
  reports_readState_bind fun _ => reports_bind (txn_reports _ _ _) fun _ =>
    reports_ite (reports_bind (reports_raise _) fun _ => reports_pure _) (reports_pure _)

theorem memWrite_reports (fn : FnCode) (addr : BusAddr) (d : List Byte) : StopsAtFailure (memWrite fn addr d) :=
  reports_bind (txn_reports _ _ _) fun _ => reports_pure _

theorem log_reports (k : LogKind) : StopsAtFailure (log k) :=
  reports_update fun _ => .of_event (e := .log k) (by simp) rfl rfl

theorem sleep_reports (d : Nat) : StopsAtFailure (sleep d) :=
  reports_update fun _ => .of_event (e := .sleep d) (by simp) rfl rfl

theorem deliver_reports {e : PortEvent} (he : ∀ out, e ≠ .xfer out none) : StopsAtFailure (deliver e) :=
  fun _ => ends_deliver (fun _ => .inl (.of_event he rfl rfl)) fun _ => .inl (.of_event he rfl rfl)

theorem storeBuffer_reports (b : Buffer) (bs : List Byte) : StopsAtFailure (update (·.storeBuffer b bs)) :=
  reports_update fun _ => by cases b <;> exact .of_trace rfl rfl

/-! ### The receive path -/

theorem tryRead_reports (fn : FnCode) (addr : BusAddr) (n : Nat) : StopsAtFailure (tryRead fn addr n) := by
  refine reports_bind_handsOn (reports_attempt (memRead_reports fn addr n)) (fun a => ?_) fun a c h => ?_
  · split
    · exact reports_pure _
    · exact reports_pure _
    · exact reports_raise _
  · rcases a with e | d <;> cases h
    exact handsOn_raise _

theorem fetchPacket_reports : StopsAtFailure fetchPacket := by
  unfold fetchPacket rejectTooLong
  refine reports_readState_bind fun s => reports_ite (reports_pure _) (reports_ite (reports_pure _)
    (reports_ite (reports_bind (log_reports _) fun _ => reports_raise _) (reports_bind (tryRead_reports _ _ _) ?_)))
  rintro (_ | d)
  · exact reports_pure _
  · exact reports_bind (storeBuffer_reports _ _) fun _ => reports_pure _

theorem busPoll_reports : StopsAtFailure busPoll := by
  refine reports_readState_bind fun s => reports_bind (tryRead_reports _ _ _) ?_
  rintro (_ | d)
  · exact reports_pure _
  · have packet : StopsAtFailure (if irqHas (leValue d) s.cfg.irqF2PacketAvailable then fetchPacket
        else pure (.noPacket .nothing)) := reports_ite fetchPacket_reports (reports_pure _)
    exact reports_bind (reports_update fun _ => .of_trace rfl rfl) fun _ =>
      reports_ite (reports_bind (log_reports _) fun _ => packet) packet

theorem classify_reports (h : SdpcmHeader) (b : List Byte) : StopsAtFailure (classify h b) := by
  have payload : StopsAtFailure (bdcPayload h b) :=
    reports_ite (reports_raise _) (reports_ite (reports_raise _) (reports_pure _))
  unfold classify
  split
  · exact reports_ite (reports_raise _) (reports_pure _)
  · exact reports_bind payload fun _ => reports_readState_bind fun _ => reports_ite (reports_pure _) (reports_pure _)
  · exact reports_bind payload fun _ => reports_pure _
  · exact reports_raise _

theorem rxOne_reports (len : Nat) : StopsAtFailure (rxOne len) := by
  have check {c : Prop} [Decidable c] {e : Err} {p : Proc Packet} (hp : StopsAtFailure p) :
      StopsAtFailure (if c then raise e >>= fun _ : Unit => p else p) :=
    reports_ite (reports_bind (reports_raise _) fun _ => hp) hp
  exact reports_readState_bind fun s => check (check (reports_bind (reports_update fun _ => .of_trace rfl rfl) fun _ =>
    check (check (classify_reports _ _))))

theorem route_reports (p : Packet) : StopsAtFailure (route p) := by
  refine reports_readState_bind fun s => ?_
  cases p with
  | control | dropped => exact reports_pure _
  | data off n => exact reports_ite (deliver_reports (by simp)) (reports_pure _)
  | event off n => exact deliver_reports (by simp)

theorem pollAndDispatch_reports : Reports PollOutcome.error pollAndDispatch := by
  refine reports_bind_handsOn (reports_attempt busPoll_reports) (fun a => ?_) fun a c h => ?_
  · rcases a with e | why | len
    · exact reports_pure _
    · exact reports_pure _
    · refine reports_bind_handsOn (reports_attempt (rxOne_reports len)) (fun a => ?_) fun a c h => ?_
      · have logged (k : LogKind) (o : PollOutcome) : Reports PollOutcome.error (log k >>= fun _ => pure o) :=
          reports_bind (log_reports k) fun _ => reports_pure o
        split
        · next p => exact reports_bind (route_reports p) fun _ => reports_pure _
        · exact logged _ _
        · exact logged _ _
        · exact logged _ _
        · exact logged _ _
        · exact reports_pure _
      · rcases a with e | p <;> cases h
        exact handsOn_pure rfl
  · rcases a with e | p <;> cases h
    exact handsOn_pure rfl

/-! ### The senders -/

/-- A poll and what follows it, which raises the poll's bus failure (R204, R238). -/
theorem reports_poll {err : β → Option Err} {f : PollOutcome → Proc β} (hf : ∀ a, Reports err (f a))
    (hc : ∀ c, f (.err (.busFailure c)) = raise (.busFailure c)) : Reports err (pollAndDispatch >>= f) := by
  refine reports_bind_handsOn pollAndDispatch_reports hf fun a c h => ?_
  cases a <;> cases h
  rw [hc]
  exact handsOn_raise _

theorem waitCreditFor_reports (n : Nat) : StopsAtFailure (waitCreditFor n) := by
  induction n with
  | zero => exact reports_readState_bind fun _ => reports_ite (reports_pure _) (reports_raise _)
  | succ n ih =>
    refine reports_readState_bind fun s => reports_ite (reports_pure _) (reports_poll (fun a => ?_) fun _ => rfl)
    split
    · exact reports_raise _
    · exact reports_bind (sleep_reports _) fun _ => ih

theorem waitCredit_reports : StopsAtFailure waitCredit := reports_readState_bind fun _ => waitCreditFor_reports _

theorem buildHeader_reports (chan : Byte) (total hl : Nat) : StopsAtFailure (buildHeader chan total hl) :=
  reports_readState_bind fun _ => reports_bind (reports_update fun _ => .of_trace rfl rfl) fun _ => reports_pure _

theorem sendFrame_reports (frame : List Byte) : StopsAtFailure (sendFrame frame) :=
  reports_readState_bind fun _ => memWrite_reports _ _ _

theorem checkControlSize_reports (n : Nat) : StopsAtFailure (checkControlSize n) :=
  reports_readState_bind fun _ => reports_ite (reports_bind (reports_raise _) fun _ => reports_guardArg _ _)
    (reports_guardArg _ _)

theorem txCtl_reports (body : List Byte) : StopsAtFailure (txCtl body) :=
  reports_bind (checkControlSize_reports _) fun _ => reports_bind waitCredit_reports fun _ =>
    reports_bind (buildHeader_reports _ _ _) fun _ => reports_bind (storeBuffer_reports _ _) fun _ =>
    reports_readState_bind fun _ => sendFrame_reports _

theorem checkInterface_reports (iface : Nat) : StopsAtFailure (checkInterface iface) :=
  reports_readState_bind fun _ => reports_guardArg _ _

theorem txData_reports (iface : Nat) (frame : List Byte) : StopsAtFailure (txData iface frame) :=
  reports_readState_bind fun _ => reports_bind (checkInterface_reports _) fun _ =>
    reports_bind (reports_guardArg _ _) fun _ => reports_bind (reports_guardArg _ _) fun _ =>
    reports_bind waitCredit_reports fun _ => reports_bind (buildHeader_reports _ _ _) fun _ => sendFrame_reports _

/-! ### The ioctls -/

theorem correlate_reports (c : CdcHeader) : StopsAtFailure (correlate c) :=
  reports_readState_bind fun _ => reports_ite (reports_ite (reports_pure _) (reports_raise _))
    (reports_bind (log_reports _) fun _ => reports_pure _)

theorem pollResponse_reports : StopsAtFailure pollResponse := by
  refine reports_poll (fun a => ?_) fun _ => rfl
  split
  · exact reports_raise _
  · exact reports_bind (correlate_reports _) fun b => reports_ite (reports_readState_bind fun _ => reports_pure _)
      (reports_pure _)
  · exact reports_pure _

theorem awaitResponseFor_reports (n : Nat) : StopsAtFailure (awaitResponseFor n) := by
  induction n with
  | zero => exact reports_raise _
  | succ n ih =>
    refine reports_bind pollResponse_reports ?_
    rintro (_ | payload)
    · exact reports_readState_bind fun _ => reports_bind (sleep_reports _) fun _ => ih
    · exact reports_pure _

theorem exchange_reports (kind : BitVec 1) (cmd : Word) (iface : Nat) (payload : List Byte) :
    StopsAtFailure (exchange kind cmd iface payload) :=
  reports_bind (reports_bind (reports_update fun _ => .of_trace rfl rfl) fun _ =>
    reports_readState_bind fun _ => txCtl_reports _) fun _ => reports_readState_bind fun _ => awaitResponseFor_reports _

theorem checkIoctlArgs_reports (cmd : Word) (iface n : Nat) : StopsAtFailure (checkIoctlArgs cmd iface n) :=
  reports_bind (checkInterface_reports _) fun _ => reports_bind (reports_readState_bind fun _ => reports_guardArg _ _)
    fun _ => reports_readState_bind fun _ => reports_guardArg _ _

theorem checkIoctlRoom_reports (n : Nat) : StopsAtFailure (checkIoctlRoom n) :=
  reports_readState_bind fun _ => reports_ite (reports_raise _) (reports_pure _)

theorem checkIovarRoom_reports (n : Nat) : StopsAtFailure (checkIovarRoom n) :=
  reports_readState_bind fun _ => reports_ite (reports_raise _) (reports_pure _)

theorem doIoctl_reports (kind : BitVec 1) (cmd : Word) (iface : Nat) (payload : List Byte) :
    StopsAtFailure (doIoctl kind cmd iface payload) :=
  reports_bind (checkIoctlArgs_reports _ _ _) fun _ => reports_bind (checkIoctlRoom_reports _) fun _ =>
    exchange_reports _ _ _ _

theorem doIovar_reports (kind : BitVec 1) (cmd : Word) (name : List Byte) (iface : Nat) (value : List Byte) :
    StopsAtFailure (doIovar kind cmd name iface value) :=
  reports_bind (reports_guardArg _ _) fun _ => reports_bind (checkIovarRoom_reports _) fun _ =>
    reports_bind (checkIoctlArgs_reports _ _ _) fun _ => reports_bind (checkIoctlRoom_reports _) fun _ =>
    reports_bind (storeBuffer_reports _ _) fun _ => exchange_reports _ _ _ _

/-! ### The window -/

theorem setWindow_reports (a : Word) : StopsAtFailure (setWindow a) := by
  have sel (e : State) (w : Word) (reg : BusAddr) (k : Nat) : StopsAtFailure (writeSelector e w reg k) :=
    reports_ite (memWrite_reports _ _ _) (reports_pure _)
  refine reports_readState_bind fun s => reports_bind (fun u => ends_invalidating ?_) fun _ =>
    reports_update fun _ => .of_trace rfl rfl
  exact reports_bind (sel _ _ _ _) (fun _ => reports_bind (sel _ _ _ _) fun _ => sel _ _ _ _) u

/-! ### The operations -/

/-- The error on the command port (R305). -/
def Result.error : Result → Option Err
  | .err e => some e
  | .ok _ | .noPacket _ => none

/-- After an instruction no transaction has failed, or the last one has and the result says which (R150, R300). -/
def FailureEnds (s t : State) : Prop :=
  NoFailure s t ∨ ∃ c, LastFailed c s t ∧ t.result = some (.err (.busFailure c)) ∧ t.lock = false

theorem operation_failureEnds {i : Instr} {body : Proc Result} (h : operation i body s = .next t)
    (hb : Reports Result.error body) : FailureEnds s t := by
  have released {e : Option Err} {r : Result} {u : State} (he : ∀ c, e = some (.busFailure c) → r = .err (.busFailure c))
      (hu : FailureReported e (s.acquire i) u) : FailureEnds s (u.release r) :=
    hu.imp id fun ⟨c, hc, hl⟩ => ⟨c, hl, by rw [State.release_result, he c hc], rfl⟩
  refine operation_ends (FailureEnds s) h (fun _ => .inl .refl) fun _ => (hb _).mono (fun r u hu => ?_) fun e u hu => ?_
  · exact released (fun c hc => by cases r <;> cases hc; rfl) hu
  · cases e with
    | raise e => exact released (fun c hc => by cases hc; rfl) hu
    | stuck => exact .inl (failureReported_none.1 hu)

/-- The operand checks make no transaction. -/
theorem checkRegister_reports (fn : Byte) (addr : Word) (size : Nat) : StopsAtFailure (checkRegister fn addr size) :=
  reports_bind (reports_guardArg _ _) fun _ => reports_bind (reports_guardArg _ _) fun _ => reports_guardArg _ _

theorem checkBlock_reports (fn : Byte) (addr : Word) (n : Nat) : StopsAtFailure (checkBlock fn addr n) :=
  reports_bind (reports_guardArg _ _) fun _ => reports_bind (reports_guardArg _ _) fun _ =>
    reports_readState_bind fun _ => reports_guardArg _ _

theorem checkBackplaneRegister_reports (addr : Word) (size : Nat) : StopsAtFailure (checkBackplaneRegister addr size) :=
  reports_bind (reports_guardArg _ _) fun _ => reports_guardArg _ _

theorem checkBackplaneBlock_reports (addr : Word) (n : Nat) : StopsAtFailure (checkBackplaneBlock addr n) :=
  reports_readState_bind fun _ => reports_bind (reports_guardArg _ _) fun _ => reports_guardArg _ _

theorem checkCommandWord_reports (autoinc : Bool) (fn : FnCode) (len : LenField) :
    StopsAtFailure (checkCommandWord autoinc fn len) :=
  reports_bind (reports_guardArg _ _) fun _ => reports_bind (reports_guardArg _ _) fun _ => reports_guardArg _ _

theorem runRead_reports (autoinc : Bool) (fn : FnCode) (addr : BusAddr) (len : LenField) :
    StopsAtFailure (runRead autoinc fn addr len) :=
  reports_bind (checkCommandWord_reports _ _ _) fun _ => reports_bind (memRead_reports _ _ _) fun _ => reports_pure _

theorem runWrite_reports (autoinc : Bool) (fn : FnCode) (addr : BusAddr) (len : LenField) (data : List Byte) :
    StopsAtFailure (runWrite autoinc fn addr len data) :=
  reports_bind (checkCommandWord_reports _ _ _) fun _ => memWrite_reports _ _ _

theorem receiveFrame_reports (h : SdpcmHeader) (rest : List Byte) : StopsAtFailure (receiveFrame h rest) :=
  reports_readState_bind fun _ => reports_ite (reports_bind (log_reports _) fun _ => reports_raise _)
    (reports_bind (storeBuffer_reports _ _) fun _ => reports_bind (rxOne_reports _) fun _ => reports_pure _)

theorem exec_failureEnds {i : Instr} (h : exec i s = .next t) : FailureEnds s t := by
  have value {j : Instr} {body : Proc Value} (h : operation j (returning body) s = .next t) (hb : StopsAtFailure body) :
      FailureEnds s t := operation_failureEnds h (reports_bind hb fun _ => reports_pure _)
  have unit {j : Instr} {body : Proc Unit} (h : operation j (returningUnit body) s = .next t) (hb : StopsAtFailure body) :
      FailureEnds s t := operation_failureEnds h (reports_bind hb fun _ => reports_pure _)
  cases i with
  | rdreg =>
    exact value h (reports_bind (checkRegister_reports _ _ _) fun _ => reports_bind (memRead_reports _ _ _) fun _ =>
      reports_pure _)
  | wrreg => exact unit h (reports_bind (checkRegister_reports _ _ _) fun _ => memWrite_reports _ _ _)
  | rdbytes =>
    exact value h (reports_bind (checkBlock_reports _ _ _) fun _ => reports_bind (memRead_reports _ _ _) fun _ =>
      reports_pure _)
  | wrbytes => exact unit h (reports_bind (checkBlock_reports _ _ _) fun _ => memWrite_reports _ _ _)
  | setwin => exact unit h (setWindow_reports _)
  | bprd =>
    exact value h (reports_bind (checkBackplaneRegister_reports _ _) fun _ => reports_bind (setWindow_reports _) fun _ =>
      reports_readState_bind fun _ => reports_bind (memRead_reports _ _ _) fun _ => reports_pure _)
  | bpwr =>
    exact unit h (reports_bind (checkBackplaneRegister_reports _ _) fun _ => reports_bind (setWindow_reports _) fun _ =>
      reports_readState_bind fun _ => memWrite_reports _ _ _)
  | bprdbytes =>
    exact value h (reports_bind (checkBackplaneBlock_reports _ _) fun _ => reports_bind (setWindow_reports _) fun _ =>
      reports_bind (memRead_reports _ _ _) fun _ => reports_pure _)
  | bpwrbytes =>
    exact unit h (reports_bind (checkBackplaneBlock_reports _ _) fun _ => reports_bind (setWindow_reports _) fun _ =>
      memWrite_reports _ _ _)
  | hascredit => exact value h (reports_readState_bind fun _ => reports_pure _)
  | txctl => exact unit h (txCtl_reports _)
  | txdata => exact unit h (txData_reports _ _)
  | ioctlset => exact unit h (reports_bind (doIoctl_reports _ _ _ _) fun _ => reports_pure _)
  | ioctlget => exact value h (reports_bind (doIoctl_reports _ _ _ _) fun _ => reports_pure _)
  | iovarset =>
    exact unit h (reports_readState_bind fun _ => reports_bind (doIovar_reports _ _ _ _ _) fun _ => reports_pure _)
  | iovarget =>
    exact value h (reports_readState_bind fun _ => reports_bind (doIovar_reports _ _ _ _ _) fun _ => reports_pure _)
  | buspoll =>
    refine operation_failureEnds h (reports_bind busPoll_reports fun a => ?_)
    cases a <;> exact reports_pure _
  | rxone =>
    exact value h (reports_readState_bind fun _ => reports_bind (reports_guardArg _ _) fun _ =>
      reports_bind (rxOne_reports _) fun _ => reports_pure _)
  | pollonce =>
    refine value h (reports_poll (fun a => ?_) fun _ => rfl)
    split
    · exact reports_pure _
    · exact reports_pure _
    · exact reports_pure _
    · exact reports_raise _
  | setcb | reset => exact unit h (reports_update fun _ => .of_trace rfl rfl)
  | cmdRdBus | cmdRdBp | cmdRdWlan | cmdRdReserved => exact value h (runRead_reports _ _ _ _)
  | cmdWrBus | cmdWrBp | cmdWrWlan | cmdWrReserved => exact unit h (runWrite_reports _ _ _ _ _)
  | status =>
    exact value h (reports_bind (reports_update fun _ => .of_trace rfl rfl) fun _ =>
      reports_readState_bind fun _ => reports_pure _)
  | cdcGet | cdcSet | bdc => exact value h (reports_pure _)
  | _ => exact value h (receiveFrame_reports _ _)

/-- A failed transaction of an instruction, as the ports show it (R150, R300). -/
theorem exec_failed_last {i : Instr} {out : List Byte} (h : exec i s = .next t)
    (hf : PortEvent.xfer out none ∈ t.trace.drop s.trace.length) :
    t.result = some (.err (.busFailure (de32 s.cfg.wireOrder (out.take 4)))) ∧
      t.trace.getLast? = some (.xfer out none) ∧ t.lock = false := by
  obtain ⟨-, es, ht, hes⟩ | ⟨c, ⟨u, tx, ⟨-, es, hu, hes⟩, ht⟩, hr, hl⟩ := exec_failureEnds h
  · rw [ht, List.drop_left] at hf
    exact absurd hf (hes out)
  · rw [ht, hu, List.append_assoc, List.drop_left, List.mem_append, List.mem_singleton] at hf
    obtain hf | hf := hf
    · exact absurd hf (hes out)
    · injection hf with hout
      subst hout
      refine ⟨?_, by rw [ht, List.getLast?_concat], hl⟩
      rw [hr, List.take_left' (ser32_length _ _), de32_ser32]

/-! ### The transport operations -/

theorem checkRegister_pass {fn : Byte} {addr : Word} {size : Nat} (hf : fn.toNat < 3) (ha : addr.toNat < 2 ^ 17)
    (hs : size = 1 ∨ size = 2 ∨ size = 4) (s : State) : checkRegister fn addr size s = .ok () s := by
  unfold checkRegister checkFunction checkAddress checkSize
  rw [guardArg_pass (by simpa using hf), guardArg_pass (by simpa using ha), guardArg_run, if_pos (by simpa using hs)]

theorem checkBlock_pass {fn : Byte} {addr : Word} {n : Nat} (hf : fn.toNat < 3) (ha : addr.toNat < 2 ^ 17) (h1 : 1 ≤ n)
    (h2 : n ≤ s.cfg.busMaxXfer) : checkBlock fn addr n s = .ok () s := by
  unfold checkBlock checkFunction checkAddress checkLength
  rw [guardArg_pass (by simpa using hf), guardArg_pass (by simpa using ha), readState_bind, guardArg_run,
    if_pos (by simp [h1, h2])]

/-- The transaction `out` with the command word `cmd` fails as the only event of an operation, which leaves the selector
registers `sel` (R150, R305). -/
def State.failed (s : State) (cmd : Word) (out : List Byte) (sel : Selectors) (rest : List Answer) : State :=
  { s with draws := s.draws + 1, chipSel := sel }.ends [.xfer out none] rest (.err (.busFailure cmd))

section
variable {i : Instr} {check : Proc Unit} {fn : FnCode} {addr : BusAddr} {rest : List Answer}

/-- An operation that reads after its checks, the transaction failing. -/
theorem operation_read_fails {n : Nat} {f : List Byte → Value} (hl : s.lock = false)
    (hc : check (s.acquire i) = .ok () (s.acquire i)) (ha : s.answers = .fail :: rest) :
    operation i (returning (check >>= fun _ => memRead fn addr n >>= fun d => pure (f d))) s =
      .next (s.failed (readCommand fn addr n) (ser32 s.cfg.wireOrder (readCommand fn addr n)) s.chipSel rest) := by
  have hr := bind_run_error (f := fun d => pure (f d))
    (memRead_fail (fn := fn) (addr := addr) (n := n) (s := s.acquire i) ha)
  rw [operation_free hl, returning, bind_run_error ((bind_run_ok hc).trans hr)]
  rfl

/-- An operation that writes after its checks, the transaction failing. -/
theorem operation_write_fails {d : List Byte} (hl : s.lock = false)
    (hc : check (s.acquire i) = .ok () (s.acquire i)) (ha : s.answers = .fail :: rest) :
    let cmd := writeCommand fn addr d.length
    operation i (returningUnit (check >>= fun _ => memWrite fn addr d)) s =
      .next (s.failed cmd (ser32 s.cfg.wireOrder cmd ++ padWords d) (s.chipUnknown cmd (padWords d)).chipSel rest) := by
  rw [operation_free hl, returningUnit, bind_run_error ((bind_run_ok hc).trans (memWrite_fail (s := s.acquire i) ha))]
  rfl

end

/-- A write does not cover a register of another function, below its address or at its end (R104). -/
theorem writtenByte_uncovered {fn : Byte} {addr : Word} {n : Nat} {reg : BusAddr} (hf : fn.toNat < 3)
    (ha : addr.toNat < 2 ^ 17) (hn : n < 2048)
    (h : fn ≠ 1 ∨ reg.toNat < addr.toNat ∨ addr.toNat + n ≤ reg.toNat) (tx : List Byte) :
    writtenByte (writeCommand (fn.setWidth 2) (addr.setWidth 17) n) tx reg = none := by
  obtain h | h := h
  · refine writtenByte_other (fun hc => h (BitVec.eq_of_toNat_eq ?_)) _ _ _ _
    have : fn.toNat % 4 = 1 := by simpa [fnBackplane] using congrArg BitVec.toNat hc
    change fn.toNat = 1
    omega
  · have haddr : (addr.setWidth 17).toNat = addr.toNat := by
      rw [BitVec.toNat_setWidth, Nat.mod_eq_of_lt ha]
    have hlen : (BitVec.ofNat 11 n).toNat = n := by
      rw [BitVec.toNat_ofNat, Nat.mod_eq_of_lt hn]
    simp only [writtenByte, writeCommand, decCmd_mkcmd, haddr, hlen]
    rw [if_neg]
    simp only [Bool.and_eq_true, decide_eq_true_eq]
    omega

/-- A failed read of RDBYTES or RDREG (R150, R154, R156). -/
theorem transport_read_fails {fn : Byte} {addr : Word} {n : Nat} {rest : List Answer} (hl : s.lock = false)
    (hf : fn.toNat < 3) (hb : addr.toNat < 2 ^ 17) (ha : s.answers = .fail :: rest) :
    let cmd := readCommand (fn.setWidth 2) (addr.setWidth 17) n
    let ended := Host.Outcome.next (s.failed cmd (ser32 s.cfg.wireOrder cmd) s.chipSel rest)
    (1 ≤ n → n ≤ s.cfg.busMaxXfer → exec (.rdbytes fn addr n) s = ended) ∧
      (n = 1 ∨ n = 2 ∨ n = 4 → exec (.rdreg fn addr n) s = ended) :=
  ⟨fun h1 h2 => operation_read_fails hl (checkBlock_pass hf hb h1 h2) ha,
    fun hs => operation_read_fails hl (checkRegister_pass hf hb hs _) ha⟩

/-- A failed write of WRBYTES or WRREG (R150, R155, R157). -/
theorem transport_write_fails {fn : Byte} {addr : Word} {bytes : List Byte} {rest : List Answer} (hl : s.lock = false)
    (hf : fn.toNat < 3) (hb : addr.toNat < 2 ^ 17) (ha : s.answers = .fail :: rest) :
    let cmd := writeCommand (fn.setWidth 2) (addr.setWidth 17) bytes.length
    let ended := Host.Outcome.next (s.failed cmd (ser32 s.cfg.wireOrder cmd ++ padWords bytes)
      (s.chipUnknown cmd (padWords bytes)).chipSel rest)
    (1 ≤ bytes.length → bytes.length ≤ s.cfg.busMaxXfer → exec (.wrbytes fn addr bytes) s = ended) ∧
      ∀ value, bytes.length = 1 ∨ bytes.length = 2 ∨ bytes.length = 4 → bytes = registerBytes value bytes.length →
        exec (.wrreg fn addr bytes.length value) s = ended := by
  refine ⟨fun h1 h2 => operation_write_fails hl (checkBlock_pass hf hb h1 h2) ha, fun value hs hv => ?_⟩
  change operation _ (returningUnit (checkRegister fn addr bytes.length >>= fun _ =>
    memWrite (fnOf fn) (busAddrOf addr) (registerBytes value bytes.length))) s = _
  rw [← hv]
  exact operation_write_fails hl (checkRegister_pass hf hb hs _) ha

end

/-! ### The obligation -/

/-- Settles O26: the first part by the procedures' reports of failed transactions, the second by running the four
operations. -/
theorem busFailures : Obligations.BusFailures := by
  refine ⟨fun i s t out h hf => exec_failed_last h hf, fun s fn addr rest hw hl hf hb ha => ⟨fun n h1 h2 => ?_, ?_⟩⟩
  · obtain ⟨hblock, hreg⟩ := transport_read_fails (n := n) hl hf hb ha
    exact ⟨hblock h1 h2, hreg⟩
  · intro bytes value h1 h2
    obtain ⟨hblock, hreg⟩ := transport_write_fails (bytes := bytes) hl hf hb ha
    have hn : bytes.length < 2048 := by
      have := (wf_transfers hw).1
      omega
    have kept {reg : BusAddr} (h : fn ≠ 1 ∨ reg.toNat < addr.toNat ∨ addr.toNat + bytes.length ≤ reg.toNat) :=
      writtenByte_uncovered hf hb hn h (padWords bytes)
    refine ⟨_, hblock h1 h2, hreg value, fun h => ?_, fun h => ?_, fun h => ?_⟩ <;>
      simp only [State.chipUnknown, kept h] <;> rfl

end Sys2Proof.Machine
end

section
/-! PROOFS. The engine's state (spec/10_state.md R20 to R50): the power-on values, the sticky flags, BUSPOLL's packet, and
the header rows that only answer. -/

namespace Sys2Proof.Machine

section
variable {s t : State}

/-! ### The sticky flags -/

/-- Each sticky flag that is set in `s` is set in `t`. -/
structure State.KeepsFlags (s t : State) : Prop where
  underflow : s.flagUnderflow = true → t.flagUnderflow = true
  overflow : s.flagOverflow = true → t.flagOverflow = true

theorem State.KeepsFlags.of_eq (hu : t.flagUnderflow = s.flagUnderflow) (ho : t.flagOverflow = s.flagOverflow) :
    s.KeepsFlags t := ⟨hu.trans, ho.trans⟩

theorem State.KeepsFlags.trans {u : State} (h : s.KeepsFlags t) (h' : t.KeepsFlags u) : s.KeepsFlags u :=
  ⟨h'.underflow ∘ h.underflow, h'.overflow ∘ h.overflow⟩

/-- A poll writes the flags only where it notes the interrupt-status value, by an OR (R35, R261). -/
theorem PollMove.keepsFlags (h : PollMove s t) : s.KeepsFlags t := by
  cases h with
  | flags irq =>
    exact ⟨fun h => by rw [State.noteIrq_flagUnderflow, h, Bool.true_or],
      fun h => by rw [State.noteIrq_flagOverflow, h, Bool.true_or]⟩
  | _ => exact .of_eq (by simp) (by simp)

theorem Move.keepsFlags (h : Move s t) : s.KeepsFlags t := by
  cases h with
  | poll h => exact h.keepsFlags
  | store b => cases b <;> exact .of_eq rfl rfl
  | _ => exact .of_eq (by simp) (by simp)

theorem Moves.keepsFlags (h : Moves s t) : s.KeepsFlags t := by
  induction h with
  | refl => exact .of_eq rfl rfl
  | tail _ h ih => exact ih.trans h.keepsFlags

theorem exec_keepsFlags {i : Instr} (hi : i ≠ .reset) (h : exec i s = .next t) : s.KeepsFlags t := by
  have acquired : s.KeepsFlags (s.acquire i) := .of_eq rfl rfl
  obtain ⟨-, rfl⟩ | ⟨-, u, hu, rfl | ⟨r, rfl⟩⟩ := exec_moves hi h
  · exact .of_eq rfl rfl
  · exact acquired.trans hu.keepsFlags
  · exact (acquired.trans hu.keepsFlags).trans (.of_eq rfl rfl)

/-! ### Operations that only answer -/

/-- The end of an operation that has put nothing on the ports forgets its acquire. -/
theorem State.acquire_release (s : State) (i : Instr) (r : Result) :
    (s.acquire i).release r = s.ends [] s.answers r := s.acquire_at_release i s.answers (.run i 0) r

theorem operation_answers {i : Instr} (v : Value) (hl : s.lock = false) :
    operation i (returning (pure v)) s = .next (s.ends [] s.answers (.ok v)) :=
  (operation_free hl).trans (congrArg _ (s.acquire_release i _))

/-- The packet length of R105, with the shift as a division. -/
theorem decStatus_pktLen (cfg : Config) (st : Word) :
    (decStatus cfg st).pktLen = st.toNat / 2 ^ cfg.stF2PktLenShift % 2 ^ cfg.stF2PktLenBits := by
  rw [decStatus, Nat.shiftRight_eq_div_pow]

theorem exec_status (word : Word) (hl : s.lock = false) :
    exec (.status word) s =
      .next ({ s with lastStatus := word }.ends [] s.answers (.ok (.status (decStatus s.cfg word)))) :=
  (operation_free hl).trans (congrArg _ ({ s with lastStatus := word }.acquire_release (.status word) _))

end

/-! ### The obligations -/

/-- Settles O9: the fields of the power-on state, read off. -/
theorem resetState : Obligations.ResetState := ⟨rfl, rfl, rfl, rfl, rfl, rfl, rfl, rfl, rfl, rfl, rfl⟩

/-- Settles O14: no move of the engine's procedures clears a flag. -/
theorem onlyResetClearsFlags : Obligations.OnlyResetClearsFlags := fun _ _ _ hi h =>
  have kept := exec_keepsFlags hi h
  ⟨kept.underflow, kept.overflow⟩

/-- Settles O50: the poll inside BUSPOLL finds the packet, and the state it ends in is the one named. -/
theorem buspollPacket : Obligations.BuspollPacket := by
  intro s p rest hl hf ha irq
  change operation .buspoll _ s = _
  rw [operation_free hl, bind_run_ok (busPoll_finds (s := s.acquire .buspoll) ha hf)]
  rfl

/-- Settles O60: STATUS by its one write, the other rows as operations that only answer. -/
theorem headerRows : Obligations.HeaderRows := by
  refine fun s word form payload h hl =>
    ⟨?_, operation_answers _ hl, operation_answers _ hl, operation_answers _ hl⟩
  rw [exec_status word hl, ← decStatus_pktLen]
  rfl

end Sys2Proof.Machine
end

section
/-! PROOFS. What an instruction leaves alone (spec/10_state.md R27 to R30, R46): the bytes of the buffers behind those it may
store to, and the agreement of the window cache with the chip. Every procedure of the engine is shown to keep within that,
once for both. -/

namespace Sys2Proof.Machine

/-! ### What is left alone -/

/-- An instruction that must keep the window cache and the chip in agreement, and a state in which they agree. -/
structure Watched (i : Instr) (s : State) : Prop where
  wf : s.cfg.wf = true
  apart : selectorsApart s.cfg = true
  cached : ¬ bypassesWindow i
  agrees : s.windowAgrees

/-- From `s` to `t` nothing has changed but what instruction `i` may change. -/
structure Confined (i : Instr) (s t : State) : Prop where
  cfg : t.cfg = s.cfg
  buffers : ∀ b a, storedBelow s.cfg i b ≤ a → t.bufByte b a = s.bufByte b a
  window : Watched i s → t.windowAgrees

/-- The configuration and the buffers of `t` are those of `s`. -/
abbrev SameBuffers (s t : State) : Prop :=
  (t.cfg, t.ioctlBuf, t.iovarBuf, t.rxBuf) = (s.cfg, s.ioctlBuf, s.iovarBuf, s.rxBuf)

/-- The cached window and the chip's selector registers of `t` are those of `s`. -/
abbrev SameWindow (s t : State) : Prop := (t.win, t.winValid, t.chipSel) = (s.win, s.winValid, s.chipSel)

/-- A transaction with the command word `cmd` and the data `tx` writes no selector register. -/
structure Misses (cfg : Config) (cmd : Word) (tx : List Byte) : Prop where
  high : writtenByte cmd tx cfg.regWinHigh = none
  mid : writtenByte cmd tx cfg.regWinMid = none
  low : writtenByte cmd tx cfg.regWinLow = none

/-- Wherever `p` ends, it has changed nothing but what instruction `i`, begun in `s`, may change. -/
def Confines (i : Instr) (s : State) {α : Type} (p : Proc α) : Prop :=
  ∀ t, Confined i s t → Ends p t (fun _ u => Confined i s u) (fun _ u => Confined i s u)

/-- `i` may store any packet a poll may bring (R262). -/
abbrev MayPoll (i : Instr) (s : State) : Prop := s.cfg.rxBufSize ≤ storedBelow s.cfg i .rx

section
variable {α β : Type} {i : Instr} {s t u : State}

theorem Confined.refl : Confined i s s := ⟨rfl, fun _ _ _ => rfl, fun h => h.agrees⟩

/-- A byte of a buffer depends on its buffer alone. -/
theorem State.bufByte_congr {b : Buffer} (h : t.buffer b = s.buffer b) (a : Nat) : t.bufByte b a = s.bufByte b a := by
  rw [State.bufByte, State.bufByte, h]

/-- A store changes no byte of another buffer, and none behind what it stores. -/
theorem State.bufByte_storeBuffer {b c : Buffer} {bs : List Byte} {a : Nat} (h : c = b → bs.length ≤ a) :
    (s.storeBuffer b bs).bufByte c a = s.bufByte c a := by
  by_cases hc : c = b
  · subst hc
    have hb := h rfl
    rw [State.bufByte, State.storeBuffer_buffer, Memory.read_write_outside (.inr (by omega)), State.bufByte]
  · exact State.bufByte_congr (State.storeBuffer_buffer_ne hc) a

/-- A change that leaves the configuration and the buffers, and keeps the agreement. -/
theorem Confined.of_frame (h : Confined i s t) (hf : SameBuffers t u)
    (hw : Watched i s → t.windowAgrees → u.windowAgrees) : Confined i s u := by
  obtain ⟨hc, h1, h2, h3⟩ : u.cfg = t.cfg ∧ u.ioctlBuf = t.ioctlBuf ∧ u.iovarBuf = t.iovarBuf ∧ u.rxBuf = t.rxBuf := by
    simpa only [Prod.mk.injEq] using hf
  have hb (b : Buffer) : u.buffer b = t.buffer b := by cases b <;> assumption
  exact ⟨hc.trans h.cfg, fun b a ha => (State.bufByte_congr (hb b) a).trans (h.buffers b a ha),
    fun hs => hw hs (h.window hs)⟩

theorem windowAgrees_of_frame (hf : SameWindow s t) (h : s.windowAgrees) : t.windowAgrees := by
  simp only [Prod.mk.injEq] at hf
  obtain ⟨h1, h2, h3⟩ := hf
  unfold State.windowAgrees State.selectorsHold at *
  rwa [h1, h2, h3]

/-- A store inside what `i` may store to. -/
theorem Confined.storeBuffer (h : Confined i s t) {b : Buffer} {bs : List Byte}
    (hb : bs.length ≤ storedBelow s.cfg i b) : Confined i s (t.storeBuffer b bs) where
  cfg := by cases b <;> exact h.cfg
  buffers c a ha := by
    refine (State.bufByte_storeBuffer fun hc => ?_).trans (h.buffers c a ha)
    subst hc
    exact hb.trans ha
  window hs := by cases b <;> exact h.window hs

/-! ### Rules -/

theorem confines_pure (a : α) : Confines i s (pure a : Proc α) := fun _ h => ends_pure h

theorem confines_raise (e : Err) : Confines i s (raise e : Proc α) := fun _ h => ends_raise h

theorem confines_guardArg (ok : Bool) (w : Argument) : Confines i s (guardArg ok w) :=
  fun _ h => ends_guardArg (fun _ => h) h

theorem confines_update {f : State → State} (hf : ∀ t, Confined i s t → Confined i s (f t)) : Confines i s (update f) :=
  fun t h => ends_update (hf t h)

/-- An update of fields that neither the buffers nor the agreement speak of. -/
theorem confines_update_frame {f : State → State} (hf : ∀ t, SameBuffers t (f t)) (hw : ∀ t, SameWindow t (f t)) :
    Confines i s (update f) :=
  confines_update fun t h => h.of_frame (hf t) fun _ => windowAgrees_of_frame (hw t)

theorem confines_store {b : Buffer} {bs : List Byte} (hb : bs.length ≤ storedBelow s.cfg i b) :
    Confines i s (update (·.storeBuffer b bs)) := confines_update fun _ h => h.storeBuffer hb

theorem confines_log (k : LogKind) : Confines i s (log k) := confines_update_frame (fun _ => rfl) fun _ => rfl

theorem confines_bind {p : Proc α} {f : α → Proc β} (hp : Confines i s p) (hf : ∀ a, Confines i s (f a)) :
    Confines i s (p >>= f) := fun t h => Ends.bind (hp t h) fun a u hu => hf a u hu

/-- What is read is a state with the configuration of `s`. -/
theorem confines_readState_bind {f : State → Proc β} (hf : ∀ u, u.cfg = s.cfg → Confines i s (f u)) :
    Confines i s (readState >>= f) := fun t h => ends_readState_bind (hf t h.cfg t h)

theorem confines_ite {c : Prop} [Decidable c] {p q : Proc α} (hp : Confines i s p) (hq : Confines i s q) :
    Confines i s (if c then p else q) := by
  split
  · exact hp
  · exact hq

/-- A check that leaves the state alone, and what follows it, which may use what was checked. -/
theorem confines_check {p : Proc α} {f : α → Proc β} {C : State → Prop}
    (hp : ∀ t, Ends p t (fun _ u => u = t ∧ C t) (fun _ u => u = t))
    (hf : ∀ a t, t.cfg = s.cfg → C t → Confines i s (f a)) : Confines i s (p >>= f) := by
  refine fun t h => Ends.bind ((hp t).mono (fun _ _ h => h) ?_) ?_
  · rintro _ _ rfl
    exact h
  · rintro a _ ⟨rfl, hc⟩
    exact hf a _ h.cfg hc _ h

/-! ### The bus primitives -/

theorem misses_other {autoinc : Bool} {fn : FnCode} (h : fn ≠ fnBackplane) (cfg : Config) (addr : BusAddr)
    (len : LenField) (tx : List Byte) : Misses cfg (mkcmd true autoinc fn addr len) tx :=
  ⟨writtenByte_other h _ _ _ _, writtenByte_other h _ _ _ _, writtenByte_other h _ _ _ _⟩

/-- A write that ends before an address does not cover it (R104). -/
theorem writtenByte_beyond {fn : FnCode} {addr reg : BusAddr} {n : Nat} (h : addr.toNat + n ≤ reg.toNat)
    (tx : List Byte) : writtenByte (writeCommand fn addr n) tx reg = none := by
  have hn : (BitVec.ofNat 11 n).toNat ≤ n := by
    rw [BitVec.toNat_ofNat]
    exact Nat.mod_le _ _
  simp only [writtenByte, writeCommand, decCmd_mkcmd]
  rw [if_neg]
  simp only [Bool.and_eq_true, decide_eq_true_eq]
  omega

/-- An access below the selector registers misses them. -/
theorem misses_below {cfg : Config} {fn : FnCode} {addr : BusAddr} {n : Nat} (ha : selectorsApart cfg = true)
    (h : addr.toNat + n ≤ 2 ^ 16) (tx : List Byte) : Misses cfg (writeCommand fn addr n) tx := by
  simp only [selectorsApart, Bool.and_eq_true, decide_eq_true_eq] at ha
  obtain ⟨⟨⟨-, h1⟩, h2⟩, h3⟩ := ha
  exact ⟨writtenByte_beyond (by omega) tx, writtenByte_beyond (by omega) tx, writtenByte_beyond (by omega) tx⟩

theorem Misses.chipSel_chipWrites {cmd : Word} {tx : List Byte} (h : Misses s.cfg cmd tx) :
    (s.chipWrites cmd tx).chipSel = s.chipSel := by
  simp [State.chipWrites, h.high, h.mid, h.low]

theorem Misses.chipSel_chipUnknown {cmd : Word} {tx : List Byte} (h : Misses s.cfg cmd tx) :
    (s.chipUnknown cmd tx).chipSel = s.chipSel := by
  simp [State.chipUnknown, h.high, h.mid, h.low]

theorem memRead_confines (fn : FnCode) (addr : BusAddr) (n : Nat) : Confines i s (memRead fn addr n) := by
  refine fun t h => memRead_ends (fun _ _ _ _ _ => ?_) (fun _ _ _ => ?_) ?_ <;>
    exact h.of_frame (by simp) fun _ => windowAgrees_of_frame (by simp)

/-- A write that misses the selector registers, if it has to. -/
theorem memWrite_confines {fn : FnCode} {addr : BusAddr} {d : List Byte}
    (hm : Watched i s → Misses s.cfg (writeCommand fn addr d.length) (padWords d)) :
    Confines i s (memWrite fn addr d) := by
  intro t h
  have miss (hs : Watched i s) : Misses t.nextAnswer.2.cfg (writeCommand fn addr d.length) (padWords d) := by
    rw [nextAnswer_cfg, h.cfg]
    exact hm hs
  refine memWrite_ends (fun _ _ _ => ?_) ?_
  · exact h.of_frame (by simp) fun hs => windowAgrees_of_frame (by simp [(miss hs).chipSel_chipWrites])
  · exact h.of_frame (by simp) fun hs => windowAgrees_of_frame (by simp [(miss hs).chipSel_chipUnknown])

/-! ### The receive path -/

/-- A poll stores nothing but packets that fit `rx_buf` (R262), and writes no register of the chip. -/
theorem PollMove.confined (hi : MayPoll i s) (hm : PollMove t u) (h : Confined i s t) : Confined i s u := by
  cases hm with
  | store bs hb => exact h.storeBuffer (b := .rx) ((h.cfg ▸ hb).trans hi)
  | _ => exact h.of_frame (by simp) fun _ => windowAgrees_of_frame (by simp)

theorem PollMoves.confined (hi : MayPoll i s) (hm : PollMoves t u) (h : Confined i s t) : Confined i s u := by
  induction hm with
  | refl => exact h
  | tail _ hm ih => exact hm.confined hi ih

theorem confines_polls {p : Proc α} (hi : MayPoll i s) (hp : ∀ t, Within PollMove p t) : Confines i s p :=
  fun t h => (hp t).mono (fun _ _ hm => PollMoves.confined hi hm h) fun _ _ hm => PollMoves.confined hi hm h

theorem classify_confines (h : SdpcmHeader) (b : List Byte) : Confines i s (classify h b) := by
  have payload : Confines i s (bdcPayload h b) :=
    confines_ite (confines_raise _) (confines_ite (confines_raise _) (confines_pure _))
  unfold classify
  split
  · exact confines_ite (confines_raise _) (confines_pure _)
  · exact confines_bind payload fun _ => confines_readState_bind fun _ _ =>
      confines_ite (confines_pure _) (confines_pure _)
  · exact confines_bind payload fun _ => confines_pure _
  · exact confines_raise _

/-- Parsing a packet stores to no buffer (R264). -/
theorem rxOne_confines (len : Nat) : Confines i s (rxOne len) := by
  have check {c : Prop} [Decidable c] {e : Err} {p : Proc Packet} (hp : Confines i s p) :
      Confines i s (if c then raise e >>= fun _ : Unit => p else p) :=
    confines_ite (confines_bind (confines_raise _) fun _ => hp) hp
  exact confines_readState_bind fun _ _ => check (check (confines_bind
    (confines_update_frame (fun _ => rfl) fun _ => rfl) fun _ => check (check (classify_confines _ _))))

/-- A frame given as an SDPCM row is stored whole (log 14). -/
theorem receiveFrame_confines {h : SdpcmHeader} {rest : List Byte} (hb : 12 + rest.length ≤ storedBelow s.cfg i .rx) :
    Confines i s (receiveFrame h rest) := by
  have fits : (encSdpcm h ++ rest).length ≤ storedBelow s.cfg i .rx := by
    rwa [List.length_append, encSdpcm_length]
  exact confines_readState_bind fun _ _ => confines_ite (confines_bind (confines_log _) fun _ => confines_raise _)
    (confines_bind (confines_store fits) fun _ => confines_bind (rxOne_confines _) fun _ => confines_pure _)

/-! ### The senders -/

theorem waitCredit_confines (hi : MayPoll i s) : Confines i s waitCredit :=
  confines_readState_bind fun _ _ => confines_polls hi (waitCreditFor_moves _)

theorem buildHeader_confines (chan : Byte) (total hl : Nat) : Confines i s (buildHeader chan total hl) :=
  confines_readState_bind fun _ _ => confines_bind (confines_update_frame (fun _ => rfl) fun _ => rfl) fun _ =>
    confines_pure _

/-- A frame goes to the WLAN function (R209). -/
theorem sendFrame_confines (frame : List Byte) : Confines i s (sendFrame frame) :=
  confines_readState_bind fun _ _ => memWrite_confines fun _ => misses_other (by decide) _ _ _ _

theorem checkControlSize_confines (n : Nat) : Confines i s (checkControlSize n) :=
  confines_readState_bind fun _ _ => confines_ite (confines_bind (confines_raise _) fun _ => confines_guardArg _ _)
    (confines_guardArg _ _)

/-- A control frame is staged in `ioctl_buf`, filled to whole words (R209, R211). -/
theorem txCtl_confines {body : List Byte} (hi : MayPoll i s)
    (hb : roundup4 (12 + body.length) ≤ storedBelow s.cfg i .ioctl) : Confines i s (txCtl body) := by
  have fits (h : SdpcmHeader) : (padWords (encSdpcm h ++ body)).length ≤ storedBelow s.cfg i .ioctl := by
    rwa [padWords_length, List.length_append, encSdpcm_length]
  exact confines_bind (checkControlSize_confines _) fun _ => confines_bind (waitCredit_confines hi) fun _ =>
    confines_bind (buildHeader_confines _ _ _) fun _ => confines_bind (confines_store (fits _)) fun _ =>
    confines_readState_bind fun _ _ => sendFrame_confines _

theorem checkInterface_confines (iface : Nat) : Confines i s (checkInterface iface) :=
  confines_readState_bind fun _ _ => confines_guardArg _ _

theorem txData_confines (hi : MayPoll i s) (iface : Nat) (frame : List Byte) : Confines i s (txData iface frame) :=
  confines_readState_bind fun _ _ => confines_bind (checkInterface_confines _) fun _ =>
    confines_bind (confines_guardArg _ _) fun _ => confines_bind (confines_guardArg _ _) fun _ =>
    confines_bind (waitCredit_confines hi) fun _ => confines_bind (buildHeader_confines _ _ _) fun _ =>
    sendFrame_confines _

/-! ### The ioctls -/

/-- A request is a control frame with a CDC header before its payload (R233, R235). -/
theorem exchange_confines {payload : List Byte} (hi : MayPoll i s)
    (hb : roundup4 (28 + payload.length) ≤ storedBelow s.cfg i .ioctl) (kind : BitVec 1) (cmd : Word) (iface : Nat) :
    Confines i s (exchange kind cmd iface payload) := by
  have fits (h : CdcHeader) : roundup4 (12 + (encCdc h ++ payload).length) ≤ storedBelow s.cfg i .ioctl := by
    rwa [List.length_append, encCdc_length, ← Nat.add_assoc]
  exact confines_bind (confines_bind (confines_update_frame (fun _ => rfl) fun _ => rfl) fun _ =>
    confines_readState_bind fun _ _ => txCtl_confines hi (fits _)) fun _ =>
    confines_readState_bind fun _ _ => confines_polls hi (awaitResponseFor_moves _)

theorem checkIoctlArgs_confines (cmd : Word) (iface n : Nat) : Confines i s (checkIoctlArgs cmd iface n) :=
  confines_bind (checkInterface_confines _) fun _ => confines_bind
    (confines_readState_bind fun _ _ => confines_guardArg _ _) fun _ =>
    confines_readState_bind fun _ _ => confines_guardArg _ _

theorem checkIoctlRoom_confines (n : Nat) : Confines i s (checkIoctlRoom n) :=
  confines_readState_bind fun _ _ => confines_ite (confines_raise _) (confines_pure _)

theorem checkIovarRoom_confines (n : Nat) : Confines i s (checkIovarRoom n) :=
  confines_readState_bind fun _ _ => confines_ite (confines_raise _) (confines_pure _)

theorem doIoctl_confines {payload : List Byte} (hi : MayPoll i s)
    (hb : roundup4 (28 + payload.length) ≤ storedBelow s.cfg i .ioctl) (kind : BitVec 1) (cmd : Word) (iface : Nat) :
    Confines i s (doIoctl kind cmd iface payload) :=
  confines_bind (checkIoctlArgs_confines _ _ _) fun _ => confines_bind (checkIoctlRoom_confines _) fun _ =>
    exchange_confines hi hb _ _ _

/-- An iovar is marshalled in `iovar_buf`, and sent as an ioctl's payload (R244 to R246). -/
theorem doIovar_confines {name value : List Byte} (hi : MayPoll i s)
    (hv : (marshalIovar name value).length ≤ storedBelow s.cfg i .iovar)
    (hb : roundup4 (28 + (marshalIovar name value).length) ≤ storedBelow s.cfg i .ioctl) (kind : BitVec 1) (cmd : Word)
    (iface : Nat) : Confines i s (doIovar kind cmd name iface value) :=
  confines_bind (confines_guardArg _ _) fun _ => confines_bind (checkIovarRoom_confines _) fun _ =>
    confines_bind (checkIoctlArgs_confines _ _ _) fun _ => confines_bind (checkIoctlRoom_confines _) fun _ =>
    confines_bind (confines_store hv) fun _ => exchange_confines hi hb _ _ _

/-! ### The window -/

theorem wf_selectors {c : Config} (h : c.wf = true) :
    c.regWinHigh ≠ c.regWinMid ∧ c.regWinHigh ≠ c.regWinLow ∧ c.regWinMid ≠ c.regWinLow := by
  simp only [Config.wf, Config.wfWindow, Bool.and_eq_true, bne_iff_ne] at h
  tauto

/-- The selector registers `c` after the write of byte `k` of `w` to the one at `reg`, if SETWIN begun in `e` makes it. -/
def selectRegister (e : State) (w : Word) (reg : BusAddr) (k : Nat) (c : Selectors) : Selectors where
  high := if e.selectorDue w k ∧ reg = e.cfg.regWinHigh then wordByte w k else c.high
  mid := if e.selectorDue w k ∧ reg = e.cfg.regWinMid then wordByte w k else c.mid
  low := if e.selectorDue w k ∧ reg = e.cfg.regWinLow then wordByte w k else c.low

/-- The selector registers `c` after all the writes of SETWIN, in order (R181). -/
def selectWindow (e : State) (w : Word) (c : Selectors) : Selectors :=
  selectRegister e w e.cfg.regWinLow 1 (selectRegister e w e.cfg.regWinMid 2 (selectRegister e w e.cfg.regWinHigh 3 c))

/-- After its writes the registers hold the window: a byte that is not written was there already (R46, R182). -/
theorem selectWindow_holds {e : State} (hw : e.cfg.wf = true) (ha : e.windowAgrees) (w : Word) :
    selectWindow e w e.chipSel = ⟨wordByte w 3, wordByte w 2, wordByte w 1⟩ := by
  obtain ⟨h1, h2, h3⟩ := wf_selectors hw
  have held {k : Nat} {old : Byte} (ho : e.winValid = true → old = wordByte e.win k) :
      (if e.selectorDue w k then wordByte w k else old) = wordByte w k := by
    split
    · rfl
    · next hd =>
      simp only [State.selectorDue, Bool.or_eq_true, not_or, Bool.not_eq_true, Bool.not_eq_false',
        bne_eq_false_iff_eq] at hd
      rw [ho hd.1, hd.2]
  simp only [selectWindow, selectRegister, h1, h2, h3, h1.symm, h2.symm, h3.symm, and_true, and_false, if_false,
    Selectors.mk.injEq]
  exact ⟨held fun hv => by rw [ha hv], held fun hv => by rw [ha hv], held fun hv => by rw [ha hv]⟩

/-- One selector write (R182). -/
theorem writeSelector_selects {e : State} (he : t.cfg = e.cfg) (w : Word) (reg : BusAddr) (k : Nat) :
    Ends (writeSelector e w reg k) t
      (fun _ u => SameBuffers t u ∧ u.chipSel = selectRegister e w reg k t.chipSel) (fun _ u => SameBuffers t u) := by
  refine writeSelector_ends (fun hd => ⟨rfl, by simp [selectRegister, hd]⟩) fun hd =>
    memWrite_ends (fun _ _ _ => ⟨by simp, ?_⟩) (by simp)
  simp only [State.emit_chipSel, List.length_singleton, chipWrites_byte, selectRegister, hd, true_and,
    nextAnswer_cfg, he, State.nextAnswer_chipSel]

/-- SetWindow: the cache and the registers hold the window, or the cache is invalid (R182, R352). -/
theorem setWindow_ends (a : Word) (s : State) :
    Ends (setWindow a) s
      (fun _ t => SameBuffers s t ∧ t.win = windowOf a ∧ t.chipSel = selectWindow s (windowOf a) s.chipSel)
      (fun _ t => SameBuffers s t ∧ t.winValid = false) := by
  have cfg {t : State} (h : SameBuffers s t) : t.cfg = s.cfg := congrArg Prod.fst h
  refine ends_readState_bind (Ends.bind
    (Q := fun _ t => SameBuffers s t ∧ t.chipSel = selectWindow s (windowOf a) s.chipSel) (ends_invalidating ?_)
    fun _ t ⟨hb, hc⟩ => ends_update ⟨hb, rfl, hc⟩)
  have failed {t u : State} (h : SameBuffers s t) (hu : SameBuffers t u) :
      SameBuffers s { u with winValid := false } ∧ { u with winValid := false }.winValid = false := ⟨hu.trans h, rfl⟩
  refine Ends.bind ((writeSelector_selects rfl _ _ _).mono (fun _ _ h => h) fun _ _ => failed rfl) ?_
  rintro _ t ⟨ht, htc⟩
  refine Ends.bind ((writeSelector_selects (cfg ht) _ _ _).mono (fun _ _ h => h) fun _ _ => failed ht) ?_
  rintro _ u ⟨hu, huc⟩
  refine (writeSelector_selects (cfg (hu.trans ht)) _ _ _).mono ?_ fun _ _ => failed (hu.trans ht)
  rintro _ v ⟨hv, hvc⟩
  exact ⟨hv.trans (hu.trans ht), by rw [hvc, huc, htc, selectWindow]⟩

theorem setWindow_confines (a : Word) : Confines i s (setWindow a) := by
  refine fun t h => (setWindow_ends a t).mono ?_ ?_
  · rintro _ u ⟨hf, hw, hc⟩
    refine h.of_frame hf fun hs ha _ => ?_
    rw [State.selectorsHold, hc, hw, selectWindow_holds (h.cfg ▸ hs.wf) ha]
  · rintro _ u ⟨hf, hv⟩
    exact h.of_frame hf fun _ _ hu => absurd (hv.symm.trans hu) Bool.false_ne_true

/-- The offset of an address in its window, as a remainder (R70). -/
theorem low15_toNat (a : Word) : (a &&& 0x7FFF).toNat = a.toNat % 2 ^ 15 :=
  (BitVec.toNat_and ..).trans (Nat.and_two_pow_sub_one_eq_mod _ 15)

theorem blockOffset_toNat (a : Word) : (blockOffset a).toNat = a.toNat % 2 ^ 15 := by
  rw [blockOffset, busAddrOf, BitVec.toNat_setWidth, low15_toNat]
  omega

/-- A register access through the window lies below the selector registers, with or without the 4-byte flag (R69, R71):
the flag has no bit of the window offset, and the offset is aligned. -/
theorem registerOffset_le {cfg : Config} (hw : cfg.wf = true) (ha : selectorsApart cfg = true) {a : Word} {size : Nat}
    (hs : size = 1 ∨ size = 2 ∨ size = 4) (hm : a.toNat % size = 0) :
    (registerOffset cfg a size).toNat + size ≤ 2 ^ 16 := by
  have hx := blockOffset_toNat a
  by_cases h4 : size = 4
  · subst h4
    have hf : cfg.bpFlag4B.toNat % 2 ^ 15 = 0 := by
      simp only [Config.wf, Config.wfWindow, Bool.and_eq_true, beq_iff_eq] at hw
      have h : cfg.bpFlag4B &&& 0x7FFF = 0 := by tauto
      rw [← Nat.and_two_pow_sub_one_eq_mod]
      exact congrArg BitVec.toNat h
    have hf' : cfg.bpFlag4B.toNat < 2 ^ 16 := by
      simp only [selectorsApart, Bool.and_eq_true, decide_eq_true_eq] at ha
      tauto
    obtain ⟨q, hq⟩ := Nat.dvd_of_mod_eq_zero hf
    have hor : (registerOffset cfg a 4).toNat = 2 ^ 15 * q + (blockOffset a).toNat := by
      rw [Nat.two_pow_add_eq_or_of_lt (by omega), registerOffset, if_pos rfl, BitVec.toNat_or, hq, Nat.or_comm]
    omega
  · rw [registerOffset, if_neg h4, show blockOffset a ||| 0 = blockOffset a from BitVec.or_zero]
    omega

/-! ### The operations -/

/-- Past the checks of a raw register access the function is a named one (R102, R154). -/
theorem checkRegister_passes (fn : Byte) (addr : Word) (size : Nat) (t : State) :
    Ends (checkRegister fn addr size) t (fun _ u => u = t ∧ fn.toNat < 3) (fun _ u => u = t) :=
  ends_guardArg_bind (fun h => ends_guardArg_bind (fun _ =>
    ends_guardArg (fun _ => ⟨rfl, of_decide_eq_true h⟩) rfl) rfl) rfl

/-- Past the checks of a raw block access too (R156). -/
theorem checkBlock_passes (fn : Byte) (addr : Word) (n : Nat) (t : State) :
    Ends (checkBlock fn addr n) t (fun _ u => u = t ∧ fn.toNat < 3) (fun _ u => u = t) :=
  ends_guardArg_bind (fun h => ends_guardArg_bind (fun _ => ends_readState_bind
    (ends_guardArg (fun _ => ⟨rfl, of_decide_eq_true h⟩) rfl)) rfl) rfl

/-- A named function other than the backplane's. -/
theorem fnOf_ne_backplane {fn : Byte} (h : fn.toNat < 3) (h1 : fn ≠ 1) : fnOf fn ≠ fnBackplane := by
  intro hc
  have hm : fn.toNat % 4 = 1 := by simpa [fnOf, fnBackplane] using congrArg BitVec.toNat hc
  exact h1 (BitVec.eq_of_toNat_eq (show fn.toNat = 1 by omega))

/-- A raw write that does not bypass the window goes to another function than the backplane's (R354). -/
theorem rawWrite_confines {fn : Byte} (h : fn.toNat < 3) (hb : fn = 1 → bypassesWindow i) (addr : BusAddr)
    (d : List Byte) : Confines i s (memWrite (fnOf fn) addr d) :=
  memWrite_confines fun hs => misses_other (fnOf_ne_backplane h fun h1 => hs.cached (hb h1)) _ _ _ _

theorem checkCommandWord_confines (autoinc : Bool) (fn : FnCode) (len : LenField) :
    Confines i s (checkCommandWord autoinc fn len) :=
  confines_bind (confines_guardArg _ _) fun _ => confines_bind (confines_guardArg _ _) fun _ => confines_guardArg _ _

theorem runRead_confines (autoinc : Bool) (fn : FnCode) (addr : BusAddr) (len : LenField) :
    Confines i s (runRead autoinc fn addr len) :=
  confines_bind (checkCommandWord_confines _ _ _) fun _ => confines_bind (memRead_confines _ _ _) fun _ =>
    confines_pure _

theorem runWrite_confines {fn : FnCode} (h : fn = fnBackplane → bypassesWindow i) (autoinc : Bool) (addr : BusAddr)
    (len : LenField) (data : List Byte) : Confines i s (runWrite autoinc fn addr len data) :=
  confines_bind (checkCommandWord_confines _ _ _) fun _ => memWrite_confines fun hs =>
    misses_other (fun hf => hs.cached (h hf)) _ _ _ _

/-- An operation: while the lock is held it changes nothing; else its body decides. -/
theorem operation_confined {body : Proc Result} (h : operation i body s = .next t) (hb : Confines i s body) :
    Confined i s t := by
  refine operation_ends (Confined i s) h (fun _ => .refl) fun _ =>
    (hb (s.acquire i) (Confined.refl.of_frame rfl fun _ ha => ha)).mono (fun _ _ hu => hu.of_frame rfl fun _ ha => ha)
      fun e _ hu => ?_
  cases e with
  | raise e => exact hu.of_frame rfl fun _ ha => ha
  | stuck => exact hu

/-- Every instruction changes nothing but what it may change. -/
theorem exec_confined (h : exec i s = .next t) : Confined i s t := by
  have value {body : Proc Value} (h : operation i (returning body) s = .next t) (hb : Confines i s body) :
      Confined i s t := operation_confined h (confines_bind hb fun _ => confines_pure _)
  have unit {body : Proc Unit} (h : operation i (returningUnit body) s = .next t) (hb : Confines i s body) :
      Confined i s t := operation_confined h (confines_bind hb fun _ => confines_pure _)
  cases i with
  | rdreg =>
    exact value h (confines_check (checkRegister_passes _ _ _) fun _ _ _ _ =>
      confines_bind (memRead_confines _ _ _) fun _ => confines_pure _)
  | wrreg fn addr size v =>
    exact unit h (confines_check (checkRegister_passes _ _ _) fun _ _ _ hf =>
      rawWrite_confines hf (fun h1 => .inl ⟨addr, size, v, h1 ▸ rfl⟩) _ _)
  | rdbytes =>
    exact value h (confines_check (checkBlock_passes _ _ _) fun _ _ _ _ =>
      confines_bind (memRead_confines _ _ _) fun _ => confines_pure _)
  | wrbytes fn addr bytes =>
    exact unit h (confines_check (checkBlock_passes _ _ _) fun _ _ _ hf =>
      rawWrite_confines hf (fun h1 => .inr (.inl ⟨addr, bytes, h1 ▸ rfl⟩)) _ _)
  | setwin => exact unit h (setWindow_confines _)
  | bprd =>
    exact value h (confines_check (checkBackplaneRegister_ends _ _) fun _ _ _ _ =>
      confines_bind (setWindow_confines _) fun _ => confines_readState_bind fun _ _ =>
      confines_bind (memRead_confines _ _ _) fun _ => confines_pure _)
  | bpwr addr size v =>
    exact unit h (confines_check (checkBackplaneRegister_ends _ _) fun _ _ _ ⟨hs, hm⟩ =>
      confines_bind (setWindow_confines _) fun _ => confines_readState_bind fun u hu => memWrite_confines fun hw => by
        have hl : (registerBytes v size).length = size := by
          simp only [registerBytes, List.length_take, le32_length]
          omega
        rw [hu, hl]
        exact misses_below hw.apart (registerOffset_le hw.wf hw.apart hs hm) _)
  | bprdbytes =>
    exact value h (confines_check (checkBackplaneBlock_ends _ _) fun _ _ _ _ =>
      confines_bind (setWindow_confines _) fun _ => confines_bind (memRead_confines _ _ _) fun _ => confines_pure _)
  | bpwrbytes addr bytes =>
    exact unit h (confines_check (checkBackplaneBlock_ends _ _) fun _ _ _ ⟨_, _, hn⟩ =>
      confines_bind (setWindow_confines _) fun _ => memWrite_confines fun hw => misses_below hw.apart (by
        rw [low15_toNat, windowSize] at hn
        rw [blockOffset_toNat]
        omega) _)
  | hascredit => exact value h (confines_readState_bind fun _ _ => confines_pure _)
  | txctl => exact unit h (txCtl_confines le_rfl le_rfl)
  | txdata => exact unit h (txData_confines le_rfl _ _)
  | ioctlset => exact unit h (confines_bind (doIoctl_confines le_rfl le_rfl _ _ _) fun _ => confines_pure _)
  | ioctlget => exact value h (confines_bind (doIoctl_confines le_rfl le_rfl _ _ _) fun _ => confines_pure _)
  | iovarset name iface v =>
    have hl : (marshalIovar name v).length = name.length + 1 + v.length := by
      simp only [marshalIovar, List.length_append, List.length_cons]
      omega
    exact unit h (confines_readState_bind fun _ _ => confines_bind
      (doIovar_confines le_rfl hl.le (hl ▸ le_rfl) _ _ _) fun _ => confines_pure _)
  | iovarget name iface =>
    have hl : (marshalIovar name []).length = name.length + 1 := by simp [marshalIovar]
    exact value h (confines_readState_bind fun _ _ => confines_bind
      (doIovar_confines le_rfl hl.le (hl ▸ le_rfl) _ _ _) fun _ => confines_pure _)
  | buspoll =>
    refine operation_confined h (confines_bind (confines_polls le_rfl busPoll_moves) fun a => ?_)
    cases a <;> exact confines_pure _
  | rxone =>
    exact value h (confines_readState_bind fun _ _ => confines_bind (confines_guardArg _ _) fun _ =>
      confines_bind (rxOne_confines _) fun _ => confines_pure _)
  | pollonce =>
    refine value h (confines_bind (confines_polls le_rfl pollAndDispatch_moves) fun a => ?_)
    split
    · exact confines_pure _
    · exact confines_pure _
    · exact confines_pure _
    · exact confines_raise _
  | setcb => exact unit h (confines_update_frame (fun _ => rfl) fun _ => rfl)
  | reset =>
    exact unit h (confines_update fun _ ht => ht.of_frame rfl fun hs => absurd (.inr (.inr (.inr rfl))) hs.cached)
  | cmdRdBus | cmdRdBp | cmdRdWlan | cmdRdReserved => exact value h (runRead_confines _ _ _ _)
  | cmdWrBp autoinc addr len data =>
    exact unit h (runWrite_confines (fun _ => .inr (.inr (.inl ⟨autoinc, addr, len, data, rfl⟩))) _ _ _ _)
  | cmdWrBus | cmdWrWlan | cmdWrReserved => exact unit h (runWrite_confines (fun hf => absurd hf (by decide)) _ _ _ _)
  | status =>
    exact value h (confines_bind (confines_update_frame (fun _ => rfl) fun _ => rfl) fun _ =>
      confines_readState_bind fun _ _ => confines_pure _)
  | cdcGet | cdcSet | bdc => exact value h (confines_pure _)
  | _ => exact value h (receiveFrame_confines le_rfl)

end

/-! ### The obligations -/

/-- Settles O15: only SETWIN and the raw writes reach the selector registers, and SETWIN ends with the cache and the
registers equal or the cache invalid. -/
theorem windowCacheAgrees : Obligations.WindowCacheAgrees :=
  fun _ _ _ hw hs hb ha h => (exec_confined h).window ⟨hw, hs, hb, ha⟩

/-- Settles O16: each store of the engine's procedures lies below the bound of the instruction that makes it. -/
theorem buffersFrame : Obligations.BuffersFrame := fun _ _ _ b a h ha => (exec_confined h).buffers b a ha

end Sys2Proof.Machine
end

section
/-! PROOFS. The backplane window (spec/20_memory.md R66, R70; spec/41_backplane_window.md R181 to R189): SETWIN, and the
four operations that check their operands, select the window and make one access through it. -/

namespace Sys2Proof.Machine

section
variable {s : State} {i : Instr} {a : Word} {n : Nat} {sts : List Word} {rest : List Answer}

/-! ### The value of a register read -/

/-- The bytes of a value read (R63): those of the string, and 0 behind its end. -/
theorem wordByte_leValue (d : List Byte) {k : Nat} (hk : k < 4) : wordByte (leValue d) k = byteAt d k := by
  have above {v : Nat} (x : BitVec v) (y : Byte) {m : Nat} (h : 8 ≤ m) :
      (x ++ y).extractLsb' m 8 = x.extractLsb' (m - 8) 8 := BitVec.extractLsb'_append_eq_of_le h
  unfold wordByte leValue getLe32
  interval_cases k
  · exact BitVec.extractLsb'_append_eq_right
  · exact (above _ _ (by decide)).trans BitVec.extractLsb'_append_eq_right
  · exact (above _ _ (by decide)).trans ((above _ _ (by decide)).trans BitVec.extractLsb'_append_eq_right)
  · exact (above _ _ (by decide)).trans ((above _ _ (by decide)).trans
      ((above _ _ (by decide)).trans BitVec.extractLsb'_eq_self))

theorem byteAt_slice (b : List Byte) (j m k : Nat) :
    byteAt (slice b j m) k = if k < m - j then byteAt b (j + k) else 0 := by
  unfold byteAt slice
  split <;> simp [*]

/-- What a read through the window has brought back after the padding (R153, R184). -/
theorem readData_backplane (n : Nat) (back : List Byte) : readData fnBackplane n back = slice back 4 (4 + n) := rfl

/-- The bytes of the value BPRD answers (R185). -/
theorem wordByte_backplaneValue (n : Nat) (back : List Byte) {k : Nat} (hk : k < 4) :
    wordByte (leValue (readData fnBackplane n back)) k = if k < n then byteAt back (4 + k) else 0 := by
  rw [wordByte_leValue _ hk, readData_backplane, byteAt_slice, Nat.add_sub_cancel_left]

/-! ### The operand checks -/

theorem checkBackplaneRegister_pass (hs : n = 1 ∨ n = 2 ∨ n = 4) (ha : a.toNat % n = 0) (s : State) :
    checkBackplaneRegister a n s = .ok () s := by
  unfold checkBackplaneRegister checkSize checkAligned
  rw [guardArg_pass (by simpa using hs), guardArg_run, if_pos (by simpa using ha)]

theorem checkBackplaneRegister_size (hs : ¬ (n = 1 ∨ n = 2 ∨ n = 4)) (s : State) :
    checkBackplaneRegister a n s = .error (.raise (.invalidArgument .size)) s :=
  guardArg_fail (by simpa using hs) _ _ _

theorem checkBackplaneRegister_alignment (hs : n = 1 ∨ n = 2 ∨ n = 4) (ha : a.toNat % n ≠ 0) (s : State) :
    checkBackplaneRegister a n s = .error (.raise (.invalidArgument .alignment)) s := by
  unfold checkBackplaneRegister checkSize checkAligned
  rw [guardArg_pass (by simpa using hs), guardArg_run, if_neg (by simpa using ha)]

theorem checkBackplaneBlock_pass (h1 : 1 ≤ n) (h2 : n ≤ s.cfg.bpMaxXfer)
    (hw : (a &&& 0x7FFF).toNat + n ≤ windowSize) : checkBackplaneBlock a n s = .ok () s := by
  unfold checkBackplaneBlock checkLength checkWindow
  rw [readState_bind, guardArg_pass (by simp [h1, h2]), guardArg_run, if_pos (decide_eq_true hw)]

theorem checkBackplaneBlock_length (h : n = 0 ∨ s.cfg.bpMaxXfer < n) :
    checkBackplaneBlock a n s = .error (.raise (.invalidArgument .length)) s := by
  unfold checkBackplaneBlock checkLength
  rw [readState_bind, guardArg_fail]
  simp only [Bool.and_eq_false_iff, decide_eq_false_iff_not]
  omega

theorem checkBackplaneBlock_window (h1 : 1 ≤ n) (h2 : n ≤ s.cfg.bpMaxXfer)
    (hw : windowSize < (a &&& 0x7FFF).toNat + n) :
    checkBackplaneBlock a n s = .error (.raise (.invalidArgument .window)) s := by
  unfold checkBackplaneBlock checkLength checkWindow
  rw [readState_bind, guardArg_pass (by simp [h1, h2]), guardArg_run, if_neg (by simpa using hw)]

/-- An operation whose check fails ends with its error and changes nothing (R303). -/
theorem operation_refused {α : Type} {check : Proc Unit} {next : Proc α} {wrap : α → Proc Result} {e : Err}
    (hl : s.lock = false) (hc : check (s.acquire i) = .error (.raise e) (s.acquire i)) :
    operation i ((check >>= fun _ => next) >>= wrap) s = .next (s.ends [] s.answers (.err e)) := by
  rw [operation_free hl, bind_run_error (bind_run_error hc)]
  exact congrArg _ (s.acquire_release i _)

/-- A refused check of BPRD and BPWR refuses both. -/
theorem backplaneRegister_refused {which : Argument} (hl : s.lock = false) (value : Word)
    (hc : ∀ t, checkBackplaneRegister a n t = .error (.raise (.invalidArgument which)) t) :
    exec (.bprd a n) s = .next (s.ends [] s.answers (.err (.invalidArgument which))) ∧
      exec (.bpwr a n value) s = .next (s.ends [] s.answers (.err (.invalidArgument which))) :=
  ⟨operation_refused hl (hc _), operation_refused hl (hc _)⟩

/-! ### The access through the window -/

/-- The state in which `i`, begun in `s`, has selected the window of `a`, `rest` being the answers left (R182). -/
def State.windowed (s : State) (i : Instr) (a : Word) (sts : List Word) (rest : List Answer) : State :=
  { (s.acquire i).selected a sts with answers := rest, phase := Phase.tick^[sts.length] (.run i 0) }

@[simp] theorem State.windowed_cfg (s : State) (i : Instr) (a : Word) (sts : List Word) (rest : List Answer) :
    (s.windowed i a sts rest).cfg = s.cfg := rfl

theorem setWindow_acquired (hw : s.cfg.wf = true) (hn : sts.length = (s.selectorsDue a).length)
    (ha : s.answers = sts.map (reply s.cfg []) ++ rest) :
    setWindow a (s.acquire i) = .ok () (s.windowed i a sts rest) := setWindow_ok (s := s.acquire i) hw hn ha

variable {check : Proc Unit} {off : BusAddr} {st : Word}

/-- What follows the checks and the window writes runs in the state with the window selected. -/
theorem windowed_run {α : Type} (hw : s.cfg.wf = true) (hn : sts.length = (s.selectorsDue a).length)
    (ha : s.answers = sts.map (reply s.cfg []) ++ rest) (hc : check (s.acquire i) = .ok () (s.acquire i))
    (access : Proc α) :
    (check >>= fun _ => setWindow a >>= fun _ => access) (s.acquire i) = access (s.windowed i a sts rest) := by
  rw [bind_run_ok hc, bind_run_ok (setWindow_acquired hw hn ha)]

/-- An operation that checks its operands, selects the window and makes one read through it (R184). -/
theorem operation_windowRead {access : Proc Value} {f : List Byte → Value} {back : List Byte} (hw : s.cfg.wf = true)
    (hl : s.lock = false) (hn : sts.length = (s.selectorsDue a).length)
    (ha : s.answers = sts.map (reply s.cfg []) ++ reply s.cfg back st :: rest)
    (hb : back.length = 4 + roundup4 n) (hd : (decStatus s.cfg st).dataNa = false)
    (hc : check (s.acquire i) = .ok () (s.acquire i))
    (hacc : ∀ t : State, t.cfg = s.cfg →
      access t = (memRead fnBackplane off n >>= fun d => pure (f d) : Proc Value) t) :
    operation i (returning (check >>= fun _ => setWindow a >>= fun _ => access)) s =
      .next ({ s.selected a sts with lastStatus := st }.ends
        [readEvent s.cfg fnBackplane off n back st] rest (.ok (f (readData fnBackplane n back)))) := by
  have hread := memRead_reply (s := s.windowed i a sts (reply s.cfg back st :: rest)) (fn := fnBackplane) (addr := off)
    rfl hb hd
  have hrun := (hacc _ (s.windowed_cfg i a sts _)).trans (bind_run_ok hread)
  rw [operation_free hl, returning, bind_run_ok ((windowed_run hw hn ha hc access).trans hrun)]
  rfl

/-- An operation that checks its operands, selects the window and makes one write through it (R184). -/
theorem operation_windowWrite {access : Proc Unit} {d : List Byte} (hw : s.cfg.wf = true)
    (hl : s.lock = false) (hn : sts.length = (s.selectorsDue a).length)
    (ha : s.answers = sts.map (reply s.cfg []) ++ reply s.cfg [] st :: rest) (hd : d.length < 2048)
    (hc : check (s.acquire i) = .ok () (s.acquire i))
    (hacc : ∀ t : State, t.cfg = s.cfg → access t = memWrite fnBackplane off d t) :
    operation i (returningUnit (check >>= fun _ => setWindow a >>= fun _ => access)) s =
      .next ({ s.selected a sts with
          lastStatus := st
          chipSel := selectorsAfter s.cfg fnBackplane off d (s.selectorsFor a) }.ends
        [writeEvent s.cfg fnBackplane off d st] rest (.ok .unit)) := by
  have hwrite := memWrite_reply (s := s.windowed i a sts (reply s.cfg [] st :: rest)) (fn := fnBackplane) (addr := off)
    (d := d) rfl
  have hrun := (windowed_run hw hn ha hc access).trans ((hacc _ (s.windowed_cfg i a sts _)).trans hwrite)
  have hsel : ((s.windowed i a sts (reply s.cfg [] st :: rest)).chipWrites
      (writeCommand fnBackplane off d.length) (padWords d)).chipSel =
      selectorsAfter s.cfg fnBackplane off d (s.selectorsFor a) := chipWrites_write _ _ _ _ hd
  rw [operation_free hl, returningUnit, bind_run_ok hrun, ← hsel]
  rfl

end

/-! ### The obligations -/

/-- Settles O36: each clause by the check that fails. -/
theorem backplaneRefusals : Obligations.BackplaneRefusals := fun _ _ value _ _ _ hl =>
  ⟨fun hs => backplaneRegister_refused hl value (checkBackplaneRegister_size hs),
    fun hs ha => backplaneRegister_refused hl value (checkBackplaneRegister_alignment hs ha),
    fun h => operation_refused hl (checkBackplaneBlock_length h),
    fun h1 h2 hw => operation_refused hl (checkBackplaneBlock_window h1 h2 hw),
    fun h => operation_refused hl (checkBackplaneBlock_length h),
    fun h1 h2 hw => operation_refused hl (checkBackplaneBlock_window h1 h2 hw)⟩

/-- Settles O29: SETWIN is SetWindow between acquire and release. -/
theorem setwinResult : Obligations.SetwinResult := by
  intro s addr sts rest hw hl hn ha
  change operation _ (returningUnit (setWindow addr)) s = _
  rw [operation_free hl, returningUnit, bind_run_ok (setWindow_acquired hw hn ha), State.ends, List.append_nil]
  rfl

/-- Settles O32: one read through the window, its bytes zero-extended. -/
theorem bprdResult : Obligations.BprdResult := fun _ _ size _ back _ _ hw hl hs hm hn ha hb hd =>
  ⟨leValue (readData fnBackplane size back), fun _ hk => wordByte_backplaneValue size back hk,
    operation_windowRead (f := fun d => .word (leValue d)) hw hl hn ha hb hd (checkBackplaneRegister_pass hs hm _)
      fun t ht => by rw [readState_bind, ht]; rfl⟩

/-- Settles O33: one write of the value's low bytes through the window. -/
theorem bpwrResult : Obligations.BpwrResult := by
  intro s addr size value sts st rest hw hl hs hm hn ha
  have hd : (registerBytes value size).length < 2048 := by
    rw [registerBytes, List.length_take, le32_length]
    omega
  exact operation_windowWrite hw hl hn ha hd (checkBackplaneRegister_pass hs hm _) fun t ht => by
    rw [readState_bind, ht]; rfl

/-- Settles O34: one read through the window, its bytes as they are. -/
theorem bprdbytesResult : Obligations.BprdbytesResult := fun _ _ _ _ _ _ _ hw hl h1 h2 h3 hn ha hb hd =>
  operation_windowRead (f := .bytes) hw hl hn ha hb hd (checkBackplaneBlock_pass h1 h2 h3) fun _ _ => rfl

/-- Settles O35: one write of the bytes through the window. -/
theorem bpwrbytesResult : Obligations.BpwrbytesResult := fun _ _ bytes _ _ _ hw hl h1 h2 h3 hn ha =>
  have hd : bytes.length < 2048 := by
    obtain ⟨hbus, hbp, -, -⟩ := wf_transfers hw
    omega
  operation_windowWrite hw hl hn ha hd (checkBackplaneBlock_pass h1 h2 h3) fun _ _ => rfl

end Sys2Proof.Machine
end

section
/-! PROOFS. The encodings (spec/30_encoding.md R100 to R132): the command word and the headers, taken apart and put
together again. -/

namespace Sys2Proof.Machine

/-! ### The command word -/

/-- The five fields of a command word as one number (R101). -/
theorem mkcmd_toNat (write autoinc : Bool) (fn : FnCode) (addr : BusAddr) (len : LenField) :
    (mkcmd write autoinc fn addr len).toNat =
      write.toNat <<< 31 ||| autoinc.toNat <<< 30 ||| fn.toNat <<< 28 ||| addr.toNat <<< 11 ||| len.toNat := by
  simp only [mkcmd, BitVec.toNat_append, BitVec.toNat_ofBool, Nat.shiftLeft_or_distrib, ← Nat.shiftLeft_add]

/-- Every word is the command word of its fields: they lie side by side and cover it (R101). -/
theorem mkcmd_decCmd (w : Word) :
    mkcmd (decCmd w).write (decCmd w).autoinc (decCmd w).fn (decCmd w).addr (decCmd w).len = w := by
  have bit (i : Nat) : BitVec.ofBool (w.getLsbD i) = w.extractLsb' i 1 := by
    apply BitVec.eq_of_getLsbD_eq
    intro j hj
    obtain rfl : j = 0 := by omega
    simp
  simp only [mkcmd, decCmd, bit]
  rw [BitVec.extractLsb'_append_extractLsb'_eq_extractLsb' (show 31 = 30 + 1 from rfl),
    BitVec.extractLsb'_append_extractLsb'_eq_extractLsb' (show 30 = 28 + 2 from rfl),
    BitVec.extractLsb'_append_extractLsb'_eq_extractLsb' (show 28 = 11 + 17 from rfl),
    BitVec.extractLsb'_append_extractLsb'_eq_extractLsb' (show 11 = 0 + 11 from rfl)]
  exact BitVec.extractLsb'_eq_self

/-! ### Byte strings -/

theorem byteAt_drop (b : List Byte) (i k : Nat) : byteAt (b.drop i) k = byteAt b (i + k) := by
  simp [byteAt]

theorem take_eq_map_byteAt {b : List Byte} {n : Nat} (h : n ≤ b.length) :
    b.take n = (List.range n).map (byteAt b) := by
  apply List.ext_getElem
  · simpa using h
  · intro i hi _
    have : i < b.length := by simp at hi; omega
    simp [byteAt, this]

/-- `le16` undoes `LE16` (R8). -/
theorem le16_getLe16 (b : List Byte) (i : Nat) : le16 (getLe16 b i) = [byteAt b i, byteAt b (i + 1)] := by
  rw [le16, getLe16, BitVec.extractLsb'_append_eq_right, BitVec.extractLsb'_append_eq_left]

/-- `le32` undoes `LE32` (R8). -/
theorem le32_getLe32 (b : List Byte) (i : Nat) :
    le32 (getLe32 b i) = [byteAt b i, byteAt b (i + 1), byteAt b (i + 2), byteAt b (i + 3)] := by
  have hv : getLe32 b i = leValue (b.drop i) := by
    simp only [leValue, getLe32, byteAt_drop, Nat.zero_add, Nat.add_zero]
  simp only [le32, hv]
  rw [wordByte_leValue _ (by decide), wordByte_leValue _ (by decide), wordByte_leValue _ (by decide),
    wordByte_leValue _ (by decide)]
  simp only [byteAt_drop, Nat.add_zero]

/-! ### The headers -/

/-- R115: each field is read where it was written. -/
theorem decSdpcm_encSdpcm (h : SdpcmHeader) (rest : List Byte) : decSdpcm (encSdpcm h ++ rest) = h := by
  have size : getLe16 (encSdpcm h ++ rest) 0 = h.size := getLe16_le16 h.size []
  have sizeCom : getLe16 (encSdpcm h ++ rest) 2 = h.sizeCom := getLe16_le16 h.sizeCom []
  have reserved : getLe16 (encSdpcm h ++ rest) 10 = h.reserved := getLe16_le16 h.reserved []
  rw [decSdpcm, size, sizeCom, reserved]
  rfl

theorem encSdpcm_decSdpcm {b : List Byte} (h : 12 ≤ b.length) : encSdpcm (decSdpcm b) = b.take 12 := by
  simp only [encSdpcm, decSdpcm, le16_getLe16]
  exact (take_eq_map_byteAt h).symm

/-- R123: each word is read where it was written. -/
theorem decCdc_encCdc (c : CdcHeader) (rest : List Byte) : decCdc (encCdc c ++ rest) = c := by
  have cmd : getLe32 (encCdc c ++ rest) 0 = c.cmd := getLe32_le32 c.cmd []
  have length : getLe32 (encCdc c ++ rest) 4 = c.length := getLe32_le32 c.length []
  have flags : getLe32 (encCdc c ++ rest) 8 = c.flags := getLe32_le32 c.flags []
  have status : getLe32 (encCdc c ++ rest) 12 = c.status := getLe32_le32 c.status []
  rw [decCdc, cmd, length, flags, status]

theorem encCdc_decCdc {b : List Byte} (h : 16 ≤ b.length) : encCdc (decCdc b) = b.take 16 := by
  simp only [encCdc, decCdc, le32_getLe32]
  exact (take_eq_map_byteAt h).symm

theorem decBdc_encBdc (h : BdcHeader) (rest : List Byte) : decBdc (encBdc h ++ rest) = h := rfl

theorem encBdc_decBdc {b : List Byte} (h : 4 ≤ b.length) : encBdc (decBdc b) = b.take 4 :=
  (take_eq_map_byteAt h).symm

/-! ### The flags word of a CDC header -/

/-- The sub-fields of R122's flags word, with the bits no rule gives a use. -/
theorem cdcFlags_fields (id : Half) (iface : BitVec 4) (gap : BitVec 10) (kind bit0 : BitVec 1) :
    let flags : Word := id ++ iface ++ gap ++ kind ++ bit0
    idOf flags = id ∧ ifaceOf flags = iface ∧ flags.extractLsb' 2 10 = gap ∧ kindOf flags = kind ∧
      flags.extractLsb' 0 1 = bit0 := by
  have below {v w : Nat} (x : BitVec v) (y : BitVec w) {k n : Nat} (h : w ≤ k) :
      (x ++ y).extractLsb' k n = x.extractLsb' (k - w) n := BitVec.extractLsb'_append_eq_of_le h
  refine ⟨?_, ?_, ?_, ?_, BitVec.extractLsb'_append_eq_right⟩
  · rw [idOf, below _ _ (by decide), below _ _ (by decide), below _ _ (by decide)]
    exact BitVec.extractLsb'_append_eq_left
  · rw [ifaceOf, below _ _ (by decide), below _ _ (by decide), below _ _ (by decide)]
    exact BitVec.extractLsb'_append_eq_right
  · rw [below _ _ (by decide), below _ _ (by decide)]
    exact BitVec.extractLsb'_append_eq_right
  · rw [kindOf, below _ _ (by decide)]
    exact BitVec.extractLsb'_append_eq_right

/-- The flags word of a request as one number (R122): the unused bits are 0. -/
theorem mkflags_toNat (kind : BitVec 1) (iface : BitVec 4) (id : Half) :
    (mkflags kind iface id).toNat = kind.toNat <<< 1 ||| iface.toNat <<< 12 ||| id.toNat <<< 16 := by
  have zero (w : Nat) : (0 : BitVec w).toNat = 0 := BitVec.toNat_zero
  simp only [mkflags, BitVec.toNat_append, zero, Nat.or_zero, Nat.shiftLeft_or_distrib, ← Nat.shiftLeft_add]
  ac_rfl

/-- The header of an SDPCM row gives back the channel, which the row fixes, and the row's operands (R112). -/
theorem sdpcmChannel_header (f : SdpcmForm) (chan : BitVec 4) : sdpcmChannel (f.header chan) = chan :=
  BitVec.extractLsb'_append_eq_right

@[inherit_doc sdpcmChannel_header]
theorem sdpcmFormOf_header (f : SdpcmForm) (chan : BitVec 4) : sdpcmFormOf (f.header chan) = f := by
  have flags : (f.header chan).chanFlags.extractLsb' 4 4 = f.flags := BitVec.extractLsb'_append_eq_left
  rw [sdpcmFormOf, flags]
  rfl

/-- The header of a CDC row gives back the kind bit, which the row fixes, and the row's operands (R122). -/
theorem kindOf_header (f : CdcForm) (kind : BitVec 1) : kindOf (f.header kind).flags = kind := by
  obtain ⟨-, -, -, hkind, -⟩ := cdcFlags_fields f.id f.iface f.gap kind f.bit0
  exact hkind

@[inherit_doc kindOf_header]
theorem cdcFormOf_header (f : CdcForm) (kind : BitVec 1) : cdcFormOf (f.header kind) = f := by
  obtain ⟨hid, hiface, hgap, -, hbit0⟩ := cdcFlags_fields f.id f.iface f.gap kind f.bit0
  simp only [cdcFormOf, CdcForm.header, hid, hiface, hgap, hbit0]

/-! ### The obligations -/

/-- Settles O1. -/
theorem commandWordBijection : Obligations.CommandWordBijection :=
  ⟨fun w a fn addr len => ⟨mkcmd_toNat w a fn addr len, decCmd_mkcmd w a fn addr len⟩, mkcmd_decCmd⟩

/-- Settles O2, header by header. -/
theorem headersRoundTrip : Obligations.HeadersRoundTrip := by
  refine ⟨decSdpcm_encSdpcm, fun _ => encSdpcm_decSdpcm, decCdc_encCdc, fun _ => encCdc_decCdc, decBdc_encBdc,
    fun _ => encBdc_decBdc, fun kind iface id => ⟨mkflags_toNat kind iface id, ?_⟩⟩
  obtain ⟨hid, hiface, -, hkind, -⟩ := cdcFlags_fields id iface 0 kind 0
  exact ⟨hkind, hiface, hid⟩

end Sys2Proof.Machine
end

section
/-! PROOFS. Decoding (spec/30_encoding.md R100 to R142; log 8, 28): what the decoder reads from the encoder's bytes,
operand by operand, and what it does with a selector or a channel that is not the engine's. -/

namespace Sys2Proof.Machine

/-! ### Operands -/

@[simp] theorem takeByte_cons (x : Byte) (rest : List Byte) : takeByte (x :: rest) = .ok (x, rest) := rfl

theorem takeBytes_append {n : Nat} {b : List Byte} (h : b.length = n) (rest : List Byte) :
    takeBytes n (b ++ rest) = .ok (b, rest) := by
  rw [takeBytes, if_pos (by simp [← h]), List.take_left' h, List.drop_left' h]

theorem takeBytes_all {n : Nat} {b : List Byte} (h : b.length = n) : takeBytes n b = .ok (b, []) := by
  simpa using takeBytes_append h []

@[simp] theorem takeByte_encByte_append (n : Nat) (rest : List Byte) :
    takeByte (encByte n ++ rest) = .ok (BitVec.ofNat 8 n, rest) := rfl

@[simp] theorem takeByte_encByte (n : Nat) : takeByte (encByte n) = .ok (BitVec.ofNat 8 n, []) := rfl

@[simp] theorem takeWord_le32_append (v : Word) (rest : List Byte) : takeWord (le32 v ++ rest) = .ok (v, rest) := by
  have h : getLe32 (le32 v) 0 = v := getLe32_le32 v []
  rw [takeWord, takeBytes_append (le32_length v)]
  exact congrArg (fun w => Except.ok (w, rest)) h

@[simp] theorem takeWord_le32 (v : Word) : takeWord (le32 v) = .ok (v, []) := takeWord_le32_append v []

@[simp] theorem takeCount_encCount_append {n : Nat} (hn : n < 65536) (rest : List Byte) :
    takeCount (encCount n ++ rest) = .ok (n, rest) := by
  have h : (getLe16 (le16 (BitVec.ofNat 16 n)) 0).toNat = n := by
    rw [← List.append_nil (le16 _), getLe16_le16, BitVec.toNat_ofNat, Nat.mod_eq_of_lt hn]
  rw [takeCount, encCount, takeBytes_append (le16_length _)]
  exact congrArg (fun m => Except.ok (m, rest)) h

@[simp] theorem takeCount_encCount {n : Nat} (hn : n < 65536) : takeCount (encCount n) = .ok (n, []) := by
  simpa using takeCount_encCount_append hn []

@[simp] theorem takeString_encString_append {d : List Byte} (hd : d.length < 65536) (rest : List Byte) :
    takeString (encString d ++ rest) = .ok (d, rest) := by
  rw [takeString, encString, List.append_assoc, takeCount_encCount_append hd]
  exact takeBytes_append rfl rest

@[simp] theorem takeString_encString {d : List Byte} (hd : d.length < 65536) :
    takeString (encString d) = .ok (d, []) := by
  simpa using takeString_encString_append hd []

/-! ### The formats -/

/-- Reading on after an operand that is there. -/
@[simp] theorem ok_bind {ε α β : Type} (a : α) (f : α → Except ε β) : (Except.ok a >>= f) = f a := rfl

theorem decode_hostOp (wo : WireOrder) (selector : Byte) (operands : List Byte) :
    decode wo (hostOp selector operands) = decodeOperands selector.toNat operands := rfl

/-- A read command is of the row of its function (R100, R102). -/
theorem decode_encRead (wo : WireOrder) (autoinc : Bool) (fn : FnCode) (addr : BusAddr) (len : LenField) :
    decode wo (encRead wo autoinc fn addr len) = .ok
      (if fn = fnBus then .cmdRdBus autoinc addr len
        else if fn = fnBackplane then .cmdRdBp autoinc addr len
        else if fn = fnWlan then .cmdRdWlan autoinc addr len
        else .cmdRdReserved autoinc addr len) := by
  change decodeCommand wo (ser32 wo (mkcmd false autoinc fn addr len)) = _
  rw [decodeCommand, takeBytes_all (ser32_length _ _), ok_bind]
  simp only [de32_ser32, decCmd_mkcmd, Bool.false_eq_true, if_false]
  split_ifs <;> rfl

/-- A write command is of the row of its function and carries its data, the zero filling dropped (R100, R102, R106). -/
theorem decode_encWrite (wo : WireOrder) (autoinc : Bool) (fn : FnCode) (addr : BusAddr) {len : LenField}
    {data : List Byte} (h : data.length = len.toNat) :
    decode wo (encWrite wo autoinc fn addr len data) = .ok
      (if fn = fnBus then .cmdWrBus autoinc addr len data
        else if fn = fnBackplane then .cmdWrBp autoinc addr len data
        else if fn = fnWlan then .cmdWrWlan autoinc addr len data
        else .cmdWrReserved autoinc addr len data) := by
  change decodeCommand wo (ser32 wo (mkcmd true autoinc fn addr len) ++ padWords data) = _
  rw [decodeCommand, takeBytes_append (ser32_length _ _), ok_bind]
  simp only [de32_ser32, decCmd_mkcmd, if_true, padWords, takeBytes_append h, ok_bind]
  split_ifs <;> rfl

theorem decode_status (wo : WireOrder) (word : Word) : decode wo (encode wo (.status word)) = .ok (.status word) := by
  change (takeBytes 4 (ser32 wo word) >>= fun p => Except.ok (Instr.status (de32 wo p.1))) = _
  rw [takeBytes_all (ser32_length _ _), ok_bind, de32_ser32]

/-- A frame is of the row of its channel (R112). -/
theorem decode_encFrame (wo : WireOrder) (f : SdpcmForm) (chan : BitVec 4) (rest : List Byte) :
    decode wo (encFrame f chan rest) = .ok (sdpcmRow chan.toNat f rest) := by
  have h : decSdpcm (encSdpcm (f.header chan)) = f.header chan := decSdpcm_encSdpcm _ []
  change decodeSdpcm (encSdpcm (f.header chan) ++ rest) = _
  rw [decodeSdpcm, takeBytes_append (n := sdpcmLen) (encSdpcm_length _), ok_bind]
  simp only [h, sdpcmChannel_header, sdpcmFormOf_header]
  rfl

/-- A CDC header is of the row of its kind bit (R122). -/
theorem decodeCdc_encCdc (f : CdcForm) (kind : BitVec 1) (payload : List Byte) :
    decodeCdc (encCdc (f.header kind) ++ payload) =
      .ok (if kind = 1 then .cdcSet f payload else .cdcGet f payload) := by
  have h : decCdc (encCdc (f.header kind)) = f.header kind := decCdc_encCdc _ []
  rw [decodeCdc, takeBytes_append (n := cdcLen) (encCdc_length _), ok_bind]
  simp only [h, kindOf_header, cdcFormOf_header]
  split_ifs <;> rfl

/-- The bytes of a well-formed instruction decode to it: the operands of a host operation one by one, a wire form by
what its row fixes. -/
theorem decode_encode (wo : WireOrder) {i : Instr} (h : i.wf = true) : decode wo (encode wo i) = .ok i := by
  cases i with
  | rdreg fn addr size | bprd addr size | wrreg fn addr size value | bpwr addr size value =>
    have hs : size < 256 := of_decide_eq_true h
    simp [encode, decode_hostOp, decodeOperands, hs]
  | rdbytes fn addr n | bprdbytes addr n | rxone n =>
    have hn : n < 65536 := of_decide_eq_true h
    simp [encode, decode_hostOp, decodeOperands, hn]
  | wrbytes fn addr d | bpwrbytes addr d | txctl d =>
    have hd : d.length < 65536 := of_decide_eq_true h
    simp [encode, decode_hostOp, decodeOperands, hd]
  | txdata iface d | ioctlset cmd iface d | ioctlget cmd iface d =>
    obtain ⟨hi, hd⟩ : iface < 256 ∧ d.length < 65536 := by simpa [Instr.wf] using h
    simp [encode, decode_hostOp, decodeOperands, hi, hd]
  | iovarset name iface value =>
    obtain ⟨⟨hn, hi⟩, hv⟩ : (name.length < 65536 ∧ iface < 256) ∧ value.length < 65536 := by simpa [Instr.wf] using h
    simp [encode, decode_hostOp, decodeOperands, hn, hi, hv]
  | iovarget name iface =>
    obtain ⟨hn, hi⟩ : name.length < 65536 ∧ iface < 256 := by simpa [Instr.wf] using h
    simp [encode, decode_hostOp, decodeOperands, hn, hi]
  | setwin addr => simp [encode, decode_hostOp, decodeOperands]
  | setcb present => cases present <;> rfl
  | hascredit | buspoll | pollonce | reset => rfl
  | cmdRdBus a addr len | cmdRdBp a addr len | cmdRdWlan a addr len | cmdRdReserved a addr len =>
    exact decode_encRead wo a _ addr len
  | cmdWrBus a addr len data | cmdWrBp a addr len data | cmdWrWlan a addr len data | cmdWrReserved a addr len data =>
    exact decode_encWrite wo a _ addr (beq_iff_eq.1 h)
  | status word => exact decode_status wo word
  | cdcGet f payload => exact decodeCdc_encCdc f 0 payload
  | cdcSet f payload => exact decodeCdc_encCdc f 1 payload
  | bdc header => rfl
  | _ => exact decode_encFrame wo _ _ _

/-! ### What is not the engine's -/

/-- A selector outside R140's table names no operation. -/
theorem decodeOperands_unassigned {selector : Nat}
    (h : selector ∉ [0x01, 0x02, 0x03, 0x04, 0x10, 0x11, 0x12, 0x13, 0x14, 0x20, 0x21, 0x22, 0x30, 0x31, 0x32, 0x33,
      0x40, 0x41, 0x42, 0x43, 0x50]) (operands : List Byte) :
    decodeOperands selector operands = .error (.unassigned selector) := by
  unfold decodeOperands
  split
  case h_22 => rfl
  all_goals exact absurd (by decide) h

/-- A refused submission is taken and answered, and nothing else happens. -/
theorem State.taken_release (s : State) (rest : List Request) (r : Result) :
    { s with requests := rest }.release r = { s with requests := rest }.ends [] s.answers r := by
  rw [State.ends, List.append_nil]
  rfl

/-- frameAndSend on a channel that is neither control nor data is no instruction (R142). -/
theorem decode_frameAndSend_channel (wo : WireOrder) {channelType : Byte} (h0 : channelType ≠ 0)
    (h2 : channelType ≠ 2) (iface : Byte) {payload : List Byte} (hp : payload.length < 65536) :
    decode wo ⟨.pseudo, 0 :: channelType :: iface :: encString payload⟩ = .error (.channel channelType.toNat) := by
  have hnone : frameAndSend channelType.toNat iface.toNat payload = none := by
    unfold frameAndSend
    split
    · next hc => exact absurd (BitVec.eq_of_toNat_eq hc) h0
    · next hc => exact absurd (BitVec.eq_of_toNat_eq hc) h2
    · rfl
  change (takeString (encString payload) >>= _) = _
  rw [takeString_encString hp, ok_bind]
  simp only [hnone]
  rfl

/-! ### The obligations -/

/-- Settles O3. -/
theorem decodeEncode : Obligations.DecodeEncode := fun wo _ h => decode_encode wo h

/-- Settles O4: the words, decoded. -/
theorem tableWordsDecode : Obligations.TableWordsDecode := by
  unfold Obligations.TableWordsDecode
  decide

/-- Settles O6: the decoder refuses the selector, and the step answers for it. -/
theorem unassignedSelectorRefused : Obligations.UnassignedSelectorRefused := by
  intro s sel operands rest hc hl hr hsel
  have hd : decode s.cfg.wireOrder ⟨.hostOp, sel :: operands⟩ = .error (.unassigned sel.toNat) :=
    decodeOperands_unassigned hsel operands
  rw [step_refused hc hl hr hd rfl, State.taken_release]

end Sys2Proof.Machine
end

section
/-! PROOFS. What leaves the bus port (spec/30_encoding.md R102 to R106): every transaction the engine issues is
legal. -/

namespace Sys2Proof.Machine

section
variable {cfg : Config} {s t : State}

/-! ### Legal transactions -/

theorem openingCommand_ser32 (cfg : Config) (cmd : Word) (tx : List Byte) :
    openingCommand cfg (ser32 cfg.wireOrder cmd ++ tx) = decCmd cmd := by
  rw [openingCommand, List.take_left' (ser32_length _ _), de32_ser32]

/-- The length field of a transaction of 1 to 2047 bytes (R104). -/
theorem lenField_toNat {n : Nat} (h : n ≤ 2047) : (BitVec.ofNat 11 n).toNat = n := by
  rw [BitVec.toNat_ofNat, Nat.mod_eq_of_lt (by omega)]

theorem lenField_ne_zero {n : Nat} (h1 : 1 ≤ n) (h2 : n ≤ 2047) : BitVec.ofNat 11 n ≠ 0 := fun h => by
  have h0 : n = 0 := (lenField_toNat h2).symm.trans (congrArg BitVec.toNat h)
  omega

/-- A transaction is legal if its command word names a function and a length and its data phases are of the lengths of
R106, whether it is answered or fails. -/
theorem legal_of_command {write : Bool} {fn : FnCode} {addr : BusAddr} {n : Nat} {tx : List Byte}
    {back : Option (List Byte)} (hfn : fn ≠ 3) (hn : 1 ≤ n ∧ n ≤ 2047)
    (htx : tx.length = if write then roundup4 n else 0)
    (hb : ∀ b ∈ back, b.length = (if write then 0 else readLength fn n) + 4) :
    let cmd := mkcmd write true fn addr (BitVec.ofNat 11 n)
    (PortEvent.xfer (ser32 cfg.wireOrder cmd ++ tx) back).legal cfg = true := by
  intro cmd
  obtain ⟨h1, h2⟩ := hn
  simp only [cmd, PortEvent.legal, openingCommand_ser32, decCmd_mkcmd, dataPhase, lenField_toNat h2, Bool.and_eq_true,
    bne_iff_ne, beq_iff_eq, List.length_append, ser32_length, htx]
  refine ⟨⟨⟨⟨hfn, trivial⟩, lenField_ne_zero h1 h2⟩, by cases write <;> rfl⟩, ?_⟩
  cases back with
  | none => rfl
  | some b =>
    rw [beq_iff_eq, hb b rfl]
    cases write <;> rfl

theorem legal_read {fn : FnCode} (addr : BusAddr) {n : Nat} (back : Option (List Byte)) (hfn : fn ≠ 3)
    (hn : 1 ≤ n ∧ n ≤ 2047) (hb : ∀ b ∈ back, b.length = readLength fn n + 4) :
    (PortEvent.xfer (ser32 cfg.wireOrder (readCommand fn addr n)) back).legal cfg = true := by
  simpa [readCommand] using legal_of_command (cfg := cfg) (write := false) (addr := addr) (tx := []) hfn hn rfl hb

theorem legal_write {fn : FnCode} (addr : BusAddr) {d : List Byte} (back : Option (List Byte)) (hfn : fn ≠ 3)
    (hd : 1 ≤ d.length ∧ d.length ≤ 2047) (hb : ∀ b ∈ back, b.length = 4) :
    (PortEvent.xfer (ser32 cfg.wireOrder (writeCommand fn addr d.length) ++ padWords d) back).legal cfg = true :=
  legal_of_command (write := true) hfn hd (padWords_length d) fun b h => (hb b h).trans (Nat.zero_add 4).symm

/-- An event that is no transaction is legal. -/
theorem legal_of_not_xfer {e : PortEvent} (h : e.isXfer = false) : e.legal cfg = true := by
  cases e with
  | xfer => cases h
  | _ => rfl

/-! ### What every move keeps -/

/-- The configuration is legal and so is every transaction so far. -/
structure State.LegalSoFar (s : State) : Prop where
  cfg : s.cfg.wf = true
  bus : s.busLegal

theorem State.LegalSoFar.of_trace (h : s.LegalSoFar) (hc : t.cfg = s.cfg) (ht : t.trace = s.trace) : t.LegalSoFar :=
  ⟨hc ▸ h.cfg, by rw [State.busLegal, hc, ht]; exact h.bus⟩

theorem State.LegalSoFar.of_event (h : s.LegalSoFar) {e : PortEvent} (he : e.legal s.cfg = true) (hc : t.cfg = s.cfg)
    (ht : t.trace = s.trace ++ [e]) : t.LegalSoFar := by
  refine ⟨hc ▸ h.cfg, ?_⟩
  rw [State.busLegal, hc, ht]
  exact fun x hx => (List.mem_append.1 hx).elim (h.bus x) fun hx => List.mem_singleton.1 hx ▸ he

theorem PollMove.keeps_legal (hm : PollMove s t) (h : s.LegalSoFar) : t.LegalSoFar := by
  cases hm with
  | read fn addr n back st hfn hn hb =>
    exact h.of_event (legal_read addr (some back) hfn (hn h.cfg) (by simpa using hb)) (by simp) (by simp)
  | readFail fn addr n hfn hn =>
    exact h.of_event (legal_read addr none hfn (hn h.cfg) (by simp)) (by simp) (by simp)
  | emit e he | delivered e rest he => exact h.of_event (legal_of_not_xfer he) rfl rfl
  | flags | store | credit => exact h.of_trace rfl rfl

theorem Move.keeps_legal (hm : Move s t) (h : s.LegalSoFar) : t.LegalSoFar := by
  cases hm with
  | poll hm => exact hm.keeps_legal h
  | write fn addr d back st hfn hd hb =>
    exact h.of_event (legal_write addr (some back) hfn (hd h.cfg) (by simpa using hb)) (by simp) (by simp)
  | writeFail fn addr d hfn hd =>
    exact h.of_event (legal_write addr none hfn (hd h.cfg) (by simp)) (by simp) (by simp)
  | store b => cases b <;> exact h.of_trace rfl rfl
  | _ => exact h.of_trace rfl rfl

theorem legalSoFar_keptByParts : KeptByParts State.LegalSoFar where
  request _ h := h.of_trace rfl rfl
  acquire _ h := h.of_trace rfl rfl
  move := Move.keeps_legal
  zeroed h := h.of_trace rfl rfl
  release _ h := h.of_trace rfl rfl

end

/-! ### The obligation -/

/-- Settles O12, by the induction over the parts of a step. -/
theorem stepKeepsBusLegal : Obligations.StepKeepsBusLegal :=
  fun _ _ hs hb h => (legalSoFar_keptByParts.step h ⟨hs.cfg, hb⟩).bus

end Sys2Proof.Machine
end

section
/-! PROOFS. One transaction after the operand checks (spec/40_bus_transport.md R150 to R157; log 11, 12): how an
operation of that form ends, and the command words run as operations. -/

namespace Sys2Proof.Machine

section
variable {s : State} {i : Instr} {check : Proc Unit} {fn : FnCode} {addr : BusAddr} {st : Word} {rest : List Answer}

/-! ### Operations of one transaction -/

/-- An operation whose body raises an error and has changed nothing ends with that error (R303, R305). -/
theorem operation_raises {α : Type} {body : Proc α} {wrap : α → Proc Result} {e : Err} (hl : s.lock = false)
    (hb : body (s.acquire i) = .error (.raise e) (s.acquire i)) :
    operation i (body >>= wrap) s = .next (s.ends [] s.answers (.err e)) := by
  rw [operation_free hl, bind_run_error hb]
  exact congrArg _ (s.acquire_release i _)

/-- An operation that reads after its checks, the data available (R151). -/
theorem operation_reads {n : Nat} {f : List Byte → Value} {back : List Byte} (hl : s.lock = false)
    (hc : check (s.acquire i) = .ok () (s.acquire i)) (ha : s.answers = reply s.cfg back st :: rest)
    (hb : back.length = readLength fn n) (hd : (decStatus s.cfg st).dataNa = false) :
    operation i (returning (check >>= fun _ => memRead fn addr n >>= fun d => pure (f d))) s =
      .next ({ s with lastStatus := st }.ends [readEvent s.cfg fn addr n back st] rest
        (.ok (f (readData fn n back)))) := by
  have hr := bind_run_ok (f := fun d => pure (f d))
    (memRead_reply (fn := fn) (addr := addr) (n := n) (s := s.acquire i) ha hb hd)
  rw [operation_free hl, returning, bind_run_ok ((bind_run_ok hc).trans hr)]
  rfl

/-- The same, the status word reporting unavailable data: the bytes are dropped (R151, R301). -/
theorem operation_read_unavailable {n : Nat} {f : List Byte → Proc Value} {back : List Byte} (hl : s.lock = false)
    (hc : check (s.acquire i) = .ok () (s.acquire i)) (ha : s.answers = reply s.cfg back st :: rest)
    (hb : back.length = readLength fn n) (hd : (decStatus s.cfg st).dataNa = true) :
    operation i (returning (check >>= fun _ => memRead fn addr n >>= f)) s =
      .next ({ s with lastStatus := st }.ends [readEvent s.cfg fn addr n back st] rest (.err .dataUnavailable)) := by
  have hr := bind_run_error (f := f)
    (memRead_unavailable (fn := fn) (addr := addr) (n := n) (s := s.acquire i) ha hb hd)
  rw [operation_free hl, returning, bind_run_error ((bind_run_ok hc).trans hr)]
  rfl

/-- An operation that writes after its checks (R152). -/
theorem operation_writes {d : List Byte} (hl : s.lock = false) (hc : check (s.acquire i) = .ok () (s.acquire i))
    (ha : s.answers = reply s.cfg [] st :: rest) (hd : d.length < 2048) :
    operation i (returningUnit (check >>= fun _ => memWrite fn addr d)) s =
      .next ({ s with
          lastStatus := st
          chipSel := selectorsAfter s.cfg fn addr d s.chipSel }.ends
        [writeEvent s.cfg fn addr d st] rest (.ok .unit)) := by
  rw [operation_free hl, returningUnit,
    bind_run_ok ((bind_run_ok hc).trans (memWrite_reply (s := s.acquire i) ha)), ← chipWrites_write s fn addr d hd]
  rfl

/-- An operation that checks its operands, selects the window and makes one read through it, the data unavailable
(R184, R301): the window stays selected. -/
theorem operation_windowRead_unavailable {a : Word} {n : Nat} {sts : List Word} {access : Proc Value}
    {f : List Byte → Proc Value} {back : List Byte} (hw : s.cfg.wf = true) (hl : s.lock = false)
    (hn : sts.length = (s.selectorsDue a).length)
    (ha : s.answers = sts.map (reply s.cfg []) ++ reply s.cfg back st :: rest)
    (hb : back.length = 4 + roundup4 n) (hd : (decStatus s.cfg st).dataNa = true)
    (hc : check (s.acquire i) = .ok () (s.acquire i))
    (hacc : ∀ t : State, t.cfg = s.cfg → access t = (memRead fnBackplane addr n >>= f) t) :
    operation i (returning (check >>= fun _ => setWindow a >>= fun _ => access)) s =
      .next ({ s.selected a sts with lastStatus := st }.ends [readEvent s.cfg fnBackplane addr n back st] rest
        (.err .dataUnavailable)) := by
  have hread := memRead_unavailable (s := s.windowed i a sts (reply s.cfg back st :: rest)) (fn := fnBackplane)
    (addr := addr) rfl hb hd
  have hrun := (hacc _ (s.windowed_cfg i a sts _)).trans (bind_run_error hread)
  rw [operation_free hl, returning, bind_run_error ((windowed_run hw hn ha hc access).trans hrun)]
  rfl

/-! ### The checks of a command word -/

variable {autoinc : Bool} {len : LenField}

theorem checkCommandWord_pass (hfn : fn ≠ 3) (hlen : len ≠ 0) (s : State) :
    checkCommandWord true fn len s = .ok () s := by
  unfold checkCommandWord
  rw [guardArg_pass (by simpa using hfn), guardArg_pass rfl, guardArg_run, if_pos (by simpa using hlen)]

theorem checkCommandWord_function (autoinc : Bool) (len : LenField) (s : State) :
    checkCommandWord autoinc 3 len s = .error (.raise (.invalidArgument .function)) s :=
  guardArg_fail (by decide) _ _ _

theorem checkCommandWord_operation (hfn : fn ≠ 3) (len : LenField) (s : State) :
    checkCommandWord false fn len s = .error (.raise (.invalidArgument .operation)) s := by
  unfold checkCommandWord
  rw [guardArg_pass (by simpa using hfn), guardArg_fail rfl]

theorem checkCommandWord_length (hfn : fn ≠ 3) (s : State) :
    checkCommandWord true fn 0 s = .error (.raise (.invalidArgument .length)) s := by
  unfold checkCommandWord
  rw [guardArg_pass (by simpa using hfn), guardArg_pass rfl, guardArg_run, if_neg (by decide)]

/-- A command word whose checks fail is refused, read or write (R303). -/
theorem commandWord_refused {which : Argument} (hl : s.lock = false)
    (hc : ∀ t, checkCommandWord autoinc fn len t = .error (.raise (.invalidArgument which)) t) (addr : BusAddr)
    (data : List Byte) (i : Instr) :
    operation i (returning (runRead autoinc fn addr len)) s =
        .next (s.ends [] s.answers (.err (.invalidArgument which))) ∧
      operation i (returningUnit (runWrite autoinc fn addr len data)) s =
        .next (s.ends [] s.answers (.err (.invalidArgument which))) :=
  ⟨operation_refused hl (hc _), operation_refused hl (hc _)⟩

/-- A read command word (R151). -/
theorem commandWord_reads {back : List Byte} (hl : s.lock = false) (hfn : fn ≠ 3) (hlen : len ≠ 0)
    (hb : back.length = readLength fn len.toNat) (hd : (decStatus s.cfg st).dataNa = false)
    (ha : s.answers = reply s.cfg back st :: rest) :
    operation i (returning (runRead true fn addr len)) s =
      .next ({ s with lastStatus := st }.ends [readEvent s.cfg fn addr len.toNat back st] rest
        (.ok (.bytes (readData fn len.toNat back)))) :=
  operation_reads hl (checkCommandWord_pass hfn hlen _) ha hb hd

/-- A write command word with its data (R152). -/
theorem commandWord_writes {data : List Byte} (hl : s.lock = false) (hfn : fn ≠ 3) (hlen : len ≠ 0)
    (hdata : data.length = len.toNat) (ha : s.answers = reply s.cfg [] st :: rest) :
    operation i (returningUnit (runWrite true fn addr len data)) s =
      .next ({ s with
          lastStatus := st
          chipSel := selectorsAfter s.cfg fn addr data s.chipSel }.ends
        [writeEvent s.cfg fn addr data st] rest (.ok .unit)) := by
  have hd : data.length < 2048 := hdata ▸ len.isLt
  rw [runWrite, fit_eq hdata]
  exact operation_writes hl (checkCommandWord_pass hfn hlen _) ha hd

end

/-! ### The obligations -/

/-- Settles O28: each clause by the check that fails. -/
theorem commandWordRefusals : Obligations.CommandWordRefusals := by
  intro s autoinc addr len data hl
  have refusedFunction := commandWord_refused hl (checkCommandWord_function autoinc len) addr data
  have refusedOperation {fn : FnCode} (hfn : fn ≠ 3) :=
    commandWord_refused hl (checkCommandWord_operation hfn len) addr data
  have refusedLength {fn : FnCode} (hfn : fn ≠ 3) := commandWord_refused hl (checkCommandWord_length hfn) addr data
  have bus : fnBus ≠ 3 := by decide
  have bp : fnBackplane ≠ 3 := by decide
  have wlan : fnWlan ≠ 3 := by decide
  exact ⟨(refusedFunction _).1, (refusedFunction _).2,
    (refusedOperation bus _).1, (refusedOperation bp _).1, (refusedOperation wlan _).1,
    (refusedOperation bus _).2, (refusedOperation bp _).2, (refusedOperation wlan _).2,
    (refusedLength bus _).1, (refusedLength bp _).1, (refusedLength wlan _).1,
    (refusedLength bus _).2, (refusedLength bp _).2, (refusedLength wlan _).2⟩

/-- Settles O27: the checks pass, and one transaction is made. -/
theorem commandWordResults : Obligations.CommandWordResults := by
  intro s addr len back data st rest hl hlen hdata
  exact ⟨commandWord_reads hl (by decide) hlen, commandWord_reads hl (by decide) hlen,
    commandWord_reads hl (by decide) hlen, commandWord_writes hl (by decide) hlen hdata,
    commandWord_writes hl (by decide) hlen hdata, commandWord_writes hl (by decide) hlen hdata⟩

/-- Settles O25: the checks pass, the window is selected where there is one, and the read ends the operation. -/
theorem readUnavailable : Obligations.ReadUnavailable := by
  refine ⟨fun s fn addr n back st rest hl hf hb hn hd ha => ⟨fun hs => ?_, fun h1 h2 => ?_⟩,
    fun s addr n sts back st rest hw hl hn ha hb hd => ⟨fun hs hm => ?_, fun h1 h2 h3 => ?_⟩,
    fun s addr len back st rest hl hlen hd ha => ⟨fun hb => ?_, fun hb => ?_, fun hb => ?_⟩⟩
  · exact operation_read_unavailable hl (checkRegister_pass hf hb hs _) ha hn hd
  · exact operation_read_unavailable hl (checkBlock_pass hf hb h1 h2) ha hn hd
  · exact operation_windowRead_unavailable hw hl hn ha hb hd (checkBackplaneRegister_pass hs hm _) fun t ht => by
      rw [readState_bind, ht]; rfl
  · exact operation_windowRead_unavailable hw hl hn ha hb hd (checkBackplaneBlock_pass h1 h2 h3) fun _ _ => rfl
  · exact operation_read_unavailable hl (checkCommandWord_pass (by decide) hlen _) ha hb hd
  · exact operation_read_unavailable hl (checkCommandWord_pass (by decide) hlen _) ha hb hd
  · exact operation_read_unavailable hl (checkCommandWord_pass (by decide) hlen _) ha hb hd

end Sys2Proof.Machine
end

section
/-! PROOFS. What TXCTL, TXDATA and frameAndSend refuse (spec/30_encoding.md R142; spec/42_sdpcm_framer.md R210 to
R212; spec/60_exceptions.md R315): the checks before the credit wait. -/

namespace Sys2Proof.Machine

section
variable {s : State} {iface : Nat} {frame : List Byte}

/-- An interface that is too large is TXDATA's first error (R212). -/
theorem txData_interface (h : s.cfg.ifaceMax < iface) :
    txData iface frame s = .error (.raise (.invalidArgument .interface)) s := by
  unfold txData checkInterface
  simp only [bind_assoc]
  rw [readState_bind, readState_bind, guardArg_fail (by simpa using h)]

/-- With an interface that passes, an empty frame or one longer than a transfer is refused (R212). -/
theorem txData_length (hi : iface ≤ s.cfg.ifaceMax) (h : frame.length = 0 ∨ s.cfg.busMaxXfer < 18 + frame.length) :
    txData iface frame s = .error (.raise (.invalidArgument .length)) s := by
  unfold txData checkInterface
  simp only [bind_assoc]
  rw [readState_bind, readState_bind, guardArg_pass (decide_eq_true hi)]
  by_cases h0 : frame.length = 0
  · rw [guardArg_fail (by simpa using h0)]
  · have hlong : ¬ dataTotal frame ≤ s.cfg.busMaxXfer := Nat.not_le.2 (h.resolve_left h0)
    rw [guardArg_pass (by simpa using h0), guardArg_fail (decide_eq_false hlong)]

end

/-- Settles O39: the size checks of TXCTL, the checks of TXDATA, and the decoder's refusal of a channel. -/
theorem transmitRefusals : Obligations.TransmitRefusals := by
  intro s iface body frame hl
  refine ⟨fun h => operation_refused hl ?_, fun h hx => operation_refused hl ?_,
    fun h => operation_raises hl (txData_interface h), fun hi h => operation_raises hl (txData_length hi h), ?_⟩
  · exact (checkControlSize_run _ _).trans (if_pos h)
  · exact (checkControlSize_run _ _).trans ((if_neg h).trans (if_pos hx))
  · intro channelType ifaceByte rest hw hlen hr h0 h2
    rw [step_refused hw hl hr (decode_frameAndSend_channel _ h0 h2 ifaceByte hlen) rfl, State.taken_release]

end Sys2Proof.Machine
end

section
/-! PROOFS. Raw bus transport (spec/40_bus_transport.md R150 to R158; spec/60_exceptions.md R315): RDREG, WRREG, RDBYTES
and WRBYTES make one transaction, or are refused by their first check that fails. Then what a SETWIN leaves that fails on
one of its writes (spec/41_backplane_window.md R182; R352). -/

namespace Sys2Proof.Machine

section
variable {s : State} {fn : Byte} {addr : Word}

/-! ### The operand checks -/

/-- A function code that names no function fails first, whatever is checked after it (R154, R156). -/
theorem checkTarget_function {f : Unit → Proc Unit} (hf : 3 ≤ fn.toNat) (s : State) :
    (checkFunction fn >>= f) s = .error (.raise (.invalidArgument .function)) s :=
  guardArg_fail (by simpa using hf) _ _ _

/-- An address of more than 17 bits fails after the function has passed (R154, R156). -/
theorem checkTarget_address {f : Unit → Proc Unit} (hf : fn.toNat < 3) (ha : 2 ^ 17 ≤ addr.toNat) (s : State) :
    (checkFunction fn >>= fun _ => checkAddress addr >>= f) s = .error (.raise (.invalidArgument .address)) s :=
  (guardArg_pass (by simpa using hf) _ _ _).trans (guardArg_fail (by simpa using ha) _ _ _)

theorem checkTarget_pass {f : Unit → Proc Unit} (hf : fn.toNat < 3) (ha : addr.toNat < 2 ^ 17) (s : State) :
    (checkFunction fn >>= fun _ => checkAddress addr >>= f) s = f () s :=
  (guardArg_pass (by simpa using hf) _ _ _).trans (guardArg_pass (by simpa using ha) _ _ _)

theorem checkRegister_size {size : Nat} (hf : fn.toNat < 3) (ha : addr.toNat < 2 ^ 17)
    (hs : ¬ (size = 1 ∨ size = 2 ∨ size = 4)) (s : State) :
    checkRegister fn addr size s = .error (.raise (.invalidArgument .size)) s := by
  refine (checkTarget_pass hf ha s).trans ?_
  rw [checkSize, guardArg_run, if_neg (by simpa using hs)]

theorem checkBlock_length {n : Nat} (hf : fn.toNat < 3) (ha : addr.toNat < 2 ^ 17)
    (hn : n = 0 ∨ s.cfg.busMaxXfer < n) :
    checkBlock fn addr n s = .error (.raise (.invalidArgument .length)) s := by
  refine (checkTarget_pass hf ha s).trans ?_
  rw [readState_bind, checkLength, guardArg_run, if_neg]
  simp only [Bool.and_eq_true, decide_eq_true_eq]
  omega

/-- A refused check of RDREG and WRREG refuses both (R303). -/
theorem register_refused {size : Nat} {which : Argument} (hl : s.lock = false)
    (hc : ∀ t, checkRegister fn addr size t = .error (.raise (.invalidArgument which)) t) (value : Word) :
    exec (.rdreg fn addr size) s = .next (s.ends [] s.answers (.err (.invalidArgument which))) ∧
      exec (.wrreg fn addr size value) s = .next (s.ends [] s.answers (.err (.invalidArgument which))) :=
  ⟨operation_refused hl (hc _), operation_refused hl (hc _)⟩

/-! ### The bytes of a read -/

/-- Behind the bytes asked for a read has none, so that a value made of them is zero-extended (R154). -/
theorem byteAt_readData_above {f : FnCode} {n k : Nat} (h : n ≤ k) (back : List Byte) :
    byteAt (readData f n back) k = 0 := by
  rw [readData, byteAt_slice, if_neg (by omega)]

/-! ### A SETWIN that fails -/

/-- The configuration and the cached window, which the writes of SETWIN leave alone. -/
def SameCachedWindow (s t : State) : Prop := t.cfg = s.cfg ∧ t.win = s.win

theorem SameCachedWindow.trans {s t u : State} :
    SameCachedWindow s t → SameCachedWindow t u → SameCachedWindow s u :=
  fun ⟨hcfg, hwin⟩ ⟨hcfg', hwin'⟩ => ⟨hcfg'.trans hcfg, hwin'.trans hwin⟩

/-- A selector write that fails is a failed one-byte write of its register (R150, R182). -/
theorem writeSelector_fails (e : State) (w : Word) (reg : BusAddr) (k : Nat) (t : State) :
    Ends (writeSelector e w reg k) t (fun _ u => SameCachedWindow t u)
      (fun x u => SameCachedWindow t u ∧ x = .raise (.busFailure (writeCommand fnBackplane reg 1))) :=
  writeSelector_ends (fun _ => ⟨rfl, rfl⟩) fun _ =>
    memWrite_ends (fun _ _ _ => ⟨by simp, by simp⟩) ⟨⟨by simp, by simp⟩, rfl⟩

/-- What a SETWIN begun in `s` that ended with the error `e` has left (R182, R352): the cache invalid with its old
value, and the error of one of its three writes. -/
structure WindowLost (s : State) (e : Err) (t : State) : Prop where
  kept : SameCachedWindow s t
  invalid : t.winValid = false
  selector : ∃ reg ∈ [s.cfg.regWinHigh, s.cfg.regWinMid, s.cfg.regWinLow],
    e = .busFailure (writeCommand fnBackplane reg 1)

theorem setWindow_fails (a : Word) (s : State) :
    Ends (setWindow a) s (fun _ _ => True) (fun x t => ∃ e, x = .raise e ∧ WindowLost s e t) := by
  have select {reg : BusAddr} (hr : reg ∈ [s.cfg.regWinHigh, s.cfg.regWinMid, s.cfg.regWinLow]) (k : Nat) {t : State}
      (ht : SameCachedWindow s t) :
      Ends (writeSelector s (windowOf a) reg k) t (fun _ u => SameCachedWindow s u)
        (fun x u => ∃ e, x = .raise e ∧ WindowLost s e { u with winValid := false }) :=
    (writeSelector_fails _ _ _ _ _).mono (fun _ _ hu => ht.trans hu)
      fun _ _ ⟨hu, hx⟩ => ⟨_, hx, ht.trans hu, rfl, reg, hr, rfl⟩
  exact ends_readState_bind (Ends.bind (ends_invalidating (Ends.bind (select (by simp) 3 ⟨rfl, rfl⟩)
    fun _ _ ht => Ends.bind (select (by simp) 2 ht) fun _ _ hu => select (by simp) 1 hu))
    fun _ _ _ => ends_update trivial)

/-- An error of SETWIN is that of the SetWindow inside it. -/
theorem exec_setwin_fails {t : State} {e : Err} (hl : s.lock = false) (h : exec (.setwin addr) s = .next t)
    (he : t.result = some (.err e)) : WindowLost s e t := by
  refine operation_ends (fun t => t.result = some (.err e) → WindowLost s e t) h
    (fun hl' => absurd (hl.symm.trans hl') Bool.false_ne_true) (fun _ => ?_) he
  refine Ends.bind ((setWindow_fails addr _).mono (fun _ _ h => h) ?_) fun _ _ _ => ends_pure fun hr => by simp at hr
  rintro _ u ⟨e', rfl, hlost⟩ hr
  obtain rfl : e' = e := by simpa using hr
  exact ⟨hlost.kept, hlost.invalid, hlost.selector⟩

end

/-! ### The obligations -/

/-- Settles O20: the checks pass, one read is made, and its bytes are zero-extended. -/
theorem rdregResult : Obligations.RdregResult := by
  intro s fn addr size back st rest hl hf hb hs hn hd ha
  refine ⟨leValue (readData (fn.setWidth 2) size back), fun k hk => ?_,
    operation_reads (f := fun d => .word (leValue d)) hl (checkRegister_pass hf hb hs _) ha hn hd⟩
  rw [wordByte_leValue _ hk]
  split
  · rfl
  · next h => exact byteAt_readData_above (Nat.not_lt.1 h) back

/-- Settles O21: the checks pass, and one write of the value's low bytes is made. -/
theorem wrregResult : Obligations.WrregResult := by
  intro s fn addr size value st rest hl hf hb hs ha
  have hd : (registerBytes value size).length < 2048 := by
    rw [registerBytes, List.length_take, le32_length]
    omega
  exact operation_writes hl (checkRegister_pass hf hb hs _) ha hd

/-- Settles O22: the checks pass, and one read is made. -/
theorem rdbytesResult : Obligations.RdbytesResult := fun _ _ _ _ _ _ _ hl hf hb h1 h2 hn hd ha =>
  operation_reads (f := .bytes) hl (checkBlock_pass hf hb h1 h2) ha hn hd

/-- Settles O23: the checks pass, and one write is made, whose length fits the command word. -/
theorem wrbytesResult : Obligations.WrbytesResult := fun _ _ _ bytes _ _ hw hl hf hb h1 h2 ha =>
  have hd : bytes.length < 2048 := by
    obtain ⟨hbus, -, -, -⟩ := wf_transfers hw
    omega
  operation_writes hl (checkBlock_pass hf hb h1 h2) ha hd

/-- Settles O24: each clause by the check that fails. -/
theorem transportRefusals : Obligations.TransportRefusals := by
  intro s fn addr value size n bytes hl
  refine ⟨fun hf => ?_, fun hf ha => ?_, fun hf ha => ⟨fun hs => ?_, fun hn => ?_, fun hn => ?_⟩⟩
  · obtain ⟨hrd, hwr⟩ := register_refused (size := size) (addr := addr) hl (checkTarget_function hf) value
    exact ⟨hrd, hwr, operation_refused hl (checkTarget_function hf _),
      operation_refused hl (checkTarget_function hf _)⟩
  · obtain ⟨hrd, hwr⟩ := register_refused (size := size) hl (checkTarget_address hf ha) value
    exact ⟨hrd, hwr, operation_refused hl (checkTarget_address hf ha _),
      operation_refused hl (checkTarget_address hf ha _)⟩
  · exact register_refused hl (checkRegister_size hf ha hs) value
  · exact operation_refused hl (checkBlock_length hf ha hn)
  · exact operation_refused hl (checkBlock_length hf ha hn)

/-- Settles O31: the failed SETWIN has lost the window, and an invalid cache makes all three writes due. -/
theorem setwinFailure : Obligations.SetwinFailure := by
  intro s t addr e hl h he
  obtain ⟨⟨hcfg, hwin⟩, hvalid, hselector⟩ := exec_setwin_fails hl h he
  exact ⟨hvalid, hwin, hselector, fun addr' => hcfg ▸ selectorsDue_invalid hvalid addr'⟩

end Sys2Proof.Machine
end

section
/-! PROOFS. How many transactions SETWIN issues (spec/41_backplane_window.md R183): each selector write that succeeds
issues one if it is due and none if not, so SETWIN issues as many as there are window bytes due. -/

namespace Sys2Proof.Machine

section
variable {s t u : State}

/-! ### Counting transactions -/

theorem transactions_concat_xfer (es : List PortEvent) (out : List Byte) (back : Option (List Byte)) :
    transactions (es ++ [.xfer out back]) = transactions es + 1 := by
  simp [transactions, PortEvent.isXfer]

/-- From `s` to `t` the engine has issued `n` transactions. -/
def Issues (n : Nat) (s t : State) : Prop := transactions t.trace = transactions s.trace + n

theorem Issues.refl (s : State) : Issues 0 s s := rfl

theorem Issues.trans {m n : Nat} (hm : Issues m s t) (hn : Issues n t u) : Issues (m + n) s u := by
  unfold Issues at *
  omega

/-- From `s`, `p` issues `n` transactions and returns, or it raises an error. -/
def IssuesOrRaises {α : Type} (n : Nat) (p : Proc α) (s : State) : Prop :=
  Ends p s (fun _ t => Issues n s t) (fun x _ => ∃ e, x = .raise e)

/-- What two procedures issue, one after the other. -/
theorem IssuesOrRaises.bind {α β : Type} {m n : Nat} {p : Proc α} {f : α → Proc β} (hp : IssuesOrRaises m p s)
    (hf : ∀ a t, IssuesOrRaises n (f a) t) : IssuesOrRaises (m + n) (p >>= f) s :=
  Ends.bind hp fun a t ht => (hf a t).mono (fun _ _ hu => ht.trans hu) fun _ _ he => he

/-! ### The writes of SETWIN -/

/-- A write is one transaction (R152). -/
theorem memWrite_issues (fn : FnCode) (addr : BusAddr) (d : List Byte) (s : State) :
    IssuesOrRaises 1 (memWrite fn addr d) s :=
  memWrite_ends (fun _ _ _ => by simp [Issues, transactions_concat_xfer]) ⟨_, rfl⟩

/-- A selector write is one transaction when it is due, and none when it is not (R182). -/
theorem writeSelector_issues (e : State) (w : Word) (reg : BusAddr) (k : Nat) (s : State) :
    IssuesOrRaises (if e.selectorDue w k then 1 else 0) (writeSelector e w reg k) s := by
  refine writeSelector_ends (fun hd => ?_) fun hd => ?_
  · rw [hd]
    exact .refl s
  · rw [hd]
    exact memWrite_issues _ _ _ _

/-- SetWindow issues one transaction for each byte of the window that is due (R181, R182). -/
theorem setWindow_issues (a : Word) (s : State) :
    IssuesOrRaises ([3, 2, 1].countP (s.selectorDue (windowOf a))) (setWindow a) s := by
  have writes := (writeSelector_issues s (windowOf a) s.cfg.regWinHigh 3 s).bind fun _ t =>
    (writeSelector_issues s (windowOf a) s.cfg.regWinMid 2 t).bind fun _ u =>
      writeSelector_issues s (windowOf a) s.cfg.regWinLow 1 u
  refine ends_readState_bind (Ends.bind (ends_invalidating writes) fun _ t ht => ends_update ?_)
  have count : [3, 2, 1].countP (s.selectorDue (windowOf a)) =
      (if s.selectorDue (windowOf a) 3 then 1 else 0) +
        ((if s.selectorDue (windowOf a) 2 then 1 else 0) + if s.selectorDue (windowOf a) 1 then 1 else 0) := by
    simp only [List.countP_cons, List.countP_nil]
    omega
  rw [count]
  exact ht

/-- A SETWIN that returns Ok has issued the transactions of the SetWindow inside it. -/
theorem exec_setwin_issues {addr : Word} (hl : s.lock = false) (h : exec (.setwin addr) s = .next t)
    (hr : t.result = some (.ok .unit)) : Issues ([3, 2, 1].countP (s.selectorDue (windowOf addr))) s t := by
  refine operation_ends (fun t => t.result = some (.ok .unit) → Issues _ s t) h
    (fun hl' => absurd (hl.symm.trans hl') Bool.false_ne_true) (fun _ => ?_) hr
  refine Ends.bind ((setWindow_issues addr (s.acquire _)).mono (fun _ _ hu => hu) ?_) fun _ _ hu =>
    ends_pure fun _ => hu
  rintro _ u ⟨e, rfl⟩ he
  simp at he

/-- The bytes due are those that differ from a valid cache, and all three when the cache is invalid (R182, R183). -/
theorem countP_selectorDue (s : State) (w : Word) :
    [3, 2, 1].countP (s.selectorDue w) =
      if s.winValid = true then [3, 2, 1].countP fun k => wordByte w k != wordByte s.win k else 3 := by
  unfold State.selectorDue
  cases s.winValid <;> rfl

end

/-! ### The obligation -/

/-- Settles O30: SETWIN has issued the selector writes due, and those are the bytes R183 counts. -/
theorem setwinTransactionCount : Obligations.SetwinTransactionCount := by
  intro s t addr hl h hr
  have issued := exec_setwin_issues hl h hr
  rwa [countP_selectorDue] at issued

end Sys2Proof.Machine
end

section
/-! PROOFS. How an instruction that sends a frame ends (spec/42_sdpcm_framer.md R201 to R213; spec/43_ioctl_iovar.md R234 to
R238): the credit test, the credit wait and the frame, and the response wait of an ioctl operation. -/

namespace Sys2Proof.Machine

section
variable {s : State} {i : Instr} {as : List PollAnswers} {st : Word} {rest : List Answer}

/-! ### The credit test -/

/-- The sign bit of the credit difference is clear up to 127 (R201, R202). -/
theorem and_signBit_eq_zero_iff (d : Byte) : d &&& 0x80 = 0 ↔ d.toNat ≤ 127 := by
  have hbit : d &&& 0x80 = if d.msb = true then 0x80 else 0 := BitVec.and_twoPow d 7
  have hmsb : d.msb = true ↔ 128 ≤ d.toNat := by rw [BitVec.msb_eq_decide, decide_eq_true_iff]
  rw [hbit]
  split
  · next h => exact iff_of_false (by decide) (by have := hmsb.1 h; omega)
  · next h => exact iff_of_true rfl (by have := mt hmsb.2 h; omega)

/-- The two counters differ exactly if their difference is at least 1 (R201, R202). -/
theorem counters_ne_iff (seq creditMax : Byte) : seq ≠ creditMax ↔ 1 ≤ (creditMax - seq).toNat := by
  bv_omega

/-- R201's test is R202's. -/
theorem hasCredit_eq (seq creditMax : Byte) :
    hasCredit seq creditMax = decide (1 ≤ (creditMax - seq).toNat ∧ (creditMax - seq).toNat ≤ 127) := by
  rw [Bool.eq_iff_iff, hasCredit, Bool.and_eq_true, bne_iff_ne, beq_iff_eq, and_signBit_eq_zero_iff, counters_ne_iff,
    decide_eq_true_iff]

/-! ### Running an instruction that sends -/

/-- The state `s` while instruction `i` runs, `rest` being the answers left and the sequencer at `ph`. -/
abbrev State.running (s : State) (i : Instr) (rest : List Answer) (ph : Phase) : State := (s.acquire i).at rest ph

/-- The end of an operation from a state whose trace already holds its events. -/
theorem State.ends_of_trace {t : State} {es : List PortEvent} {r : Result}
    (h : t = { s with trace := s.trace ++ es }) : t.ends [] rest r = s.ends es rest r := by
  rw [h]
  simp [State.ends]

/-- An ioctl operation's frame consumes a sequence number (R206). -/
theorem State.transmitted_seq {cfg : Config} (s : State) (st : Word) (h : ioctlPasses cfg i = true) :
    (s.transmitted st i).seq = s.seq + 1 := by
  cases i with
  | ioctlset | ioctlget | iovarset | iovarget => rfl
  | _ => exact absurd h (by simp [ioctlPasses])

/-- The state in which the frame of instruction `i` is built, once its credit wait has made the rounds `as` (R204). -/
abbrev State.waited (s : State) (i : Instr) (as : List PollAnswers) : State := as.foldl State.creditRound (s.prepared i)

/-- The credit wait of instruction `i` makes the rounds `as`, none if there is credit, and then has credit, `rest` being
the answers left (R204). -/
structure State.GainsCredit (s : State) (i : Instr) (as : List PollAnswers) (rest : List Answer) : Prop where
  rounds : (s.prepared i).creditRounds as = true
  retries : as.length ≤ s.cfg.creditRetries
  credit : hasCredit (s.waited i as).seq (s.waited i as).creditMax = true
  answers : s.answers = answersOf s.cfg as ++ rest

/-- With credit there are no rounds. -/
theorem State.GainsCredit.of_hasCredit (hc : hasCredit s.seq s.creditMax = true) (ha : s.answers = rest) (i : Instr) :
    s.GainsCredit i [] rest where
  rounds := rfl
  retries := Nat.zero_le _
  credit := by simpa using hc
  answers := ha

theorem waitCredit_gains (h : s.GainsCredit i as rest) :
    ∃ ph, waitCredit ((s.prepared i).acquire i) = .ok () ((s.waited i as).running i rest ph) := by
  have hr := h.rounds
  rw [← State.creditRounds_acquire as _ i] at hr
  have hwait := waitCredit_arrives (rest := rest) hr (by simpa using h.retries) (by simpa using h.answers)
  rw [State.foldl_creditRound_acquire] at hwait
  exact hwait h.credit

/-- TXCTL and TXDATA with the credit they need, their write answered (R204, R211, R212). -/
theorem exec_transmit_gains (hl : s.lock = false) (hf : sendPasses s.cfg i = true)
    (hi : (∃ body, i = .txctl body) ∨ ∃ iface frame, i = .txdata iface frame)
    (h : s.GainsCredit i as (reply s.cfg [] st :: rest)) :
    exec i s = .next (((s.waited i as).transmitted st i).ends [] rest (.ok .unit)) := by
  obtain ⟨ph, hw⟩ := waitCredit_gains h
  rw [(exec_transmit hl hf hi).2 _ st rest hw (by simp) (by simp), State.transmitted_at, State.transmitted_acquire,
    State.at_at]
  exact congrArg _ (State.acquire_at_release _ _ _ _ _)

/-- An ioctl operation with the credit it needs, its write answered: what is left to do is the response wait (R204, R235,
R238). -/
theorem exec_ioctl_gains (hl : s.lock = false) (hf : ioctlPasses s.cfg i = true)
    (h : s.GainsCredit i as (reply s.cfg [] st :: rest)) :
    ∃ ph, exec i s = .next (finish
      ((awaitResponseFor s.cfg.ioctlRetries >>= fun b => pure (Result.ok (ioctlAnswer b i)))
        (((s.waited i as).transmitted st i).running i rest ph))) := by
  obtain ⟨ph, hw⟩ := waitCredit_gains h
  have hid : ((s.waited i as).running i (reply s.cfg [] st :: rest) ph).ioctlId = s.ioctlId + 1 :=
    (State.foldl_creditRound_ioctlId _ _).trans (s.prepared_ioctlId hf)
  refine ⟨ph.tick, ?_⟩
  rw [(exec_ioctl hl hf).2 _ st rest hw (by simp) hid (by simp), State.transmitted_at, State.transmitted_acquire,
    State.at_at]
  rfl

/-- The same without rounds: `asked` is the state in which the request has been sent. -/
theorem exec_ioctl_credit (hl : s.lock = false) (hf : ioctlPasses s.cfg i = true)
    (hc : hasCredit s.seq s.creditMax = true) (ha : s.answers = reply s.cfg [] st :: rest) :
    ∃ ph, exec i s = .next (finish
      ((awaitResponseFor s.cfg.ioctlRetries >>= fun b => pure (Result.ok (ioctlAnswer b i)))
        ((s.asked st i).running i rest ph))) :=
  exec_ioctl_gains hl hf (.of_hasCredit hc ha i)

/-! ### The response wait of a running operation -/

variable {n : Nat} {q : Poll}

/-- The rounds of the response wait see nothing of the running operation. -/
theorem State.ioctlRounds_running (as : List PollAnswers) (s : State) (i : Instr) (rest : List Answer) (ph : Phase) :
    (s.running i rest ph).ioctlRounds as = s.ioctlRounds as := by
  rw [State.ioctlRounds_at, State.ioctlRounds_acquire]

@[inherit_doc State.ioctlRounds_running]
theorem State.foldl_ioctlRound_running (as : List PollAnswers) (s : State) (i : Instr) (rest : List Answer)
    (ph : Phase) :
    as.foldl State.ioctlRound (s.running i rest ph) = (as.foldl State.ioctlRound s).running i rest ph := by
  rw [State.foldl_ioctlRound_at, State.foldl_ioctlRound_acquire]

/-- The response wait that brings the response: its payload, or the chip's error (R236 to R238). -/
theorem awaitResponseFor_running_answered (hr : s.ioctlRounds as = true) (hn : as.length < n) (ph : Phase)
    (hq : q.finds s.cfg = true) (hid : respondsTo s.ioctlId (q.packet s.cfg) = true) :
    let t := s.running i (answersOf s.cfg as ++ (q.answers s.cfg ++ rest)) ph
    let answered := (as.foldl State.ioctlRound s).received q
    let status := (cdcOf (q.packet s.cfg)).status
    (status = 0 →
      ∃ ph, awaitResponseFor n t = .ok (controlPayload (q.packet s.cfg)) (answered.running i rest ph)) ∧
    (status ≠ 0 →
      ∃ ph, awaitResponseFor n t = .error (.raise (.chipError status)) (answered.running i rest ph)) := by
  intro t answered status
  have hrt : t.ioctlRounds as = true := (State.ioctlRounds_running ..).trans hr
  have hfold := s.foldl_ioctlRound_running as i (answersOf s.cfg as ++ (q.answers s.cfg ++ rest)) ph
  refine ⟨fun hs => ?_, fun hs => ?_⟩
  · have hwait := awaitResponseFor_match (s := t) hrt hn rfl hq hid hs
    rwa [hfold] at hwait
  · have hwait := awaitResponseFor_chipError (s := t) hrt hn rfl hq hid hs
    rwa [hfold] at hwait

/-- The response wait that uses up its retries (R238). -/
theorem awaitResponseFor_running_timeout (hr : s.ioctlRounds as = true) (ph : Phase) :
    ∃ ph', awaitResponseFor as.length (s.running i (answersOf s.cfg as ++ rest) ph) =
      .error (.raise .ioctlPollTimeout) ((as.foldl State.ioctlRound s).running i rest ph') := by
  have hwait := awaitResponseFor_timeout (s := s.running i (answersOf s.cfg as ++ rest) ph)
    ((State.ioctlRounds_running ..).trans hr) rfl
  rwa [State.foldl_ioctlRound_running] at hwait

end

/-! ### The obligations -/

/-- Settles O19: the test of R201 is the one R202 gives. -/
theorem hascreditResult : Obligations.HascreditResult := by
  intro s hl
  rw [← hasCredit_eq]
  exact (operation_free hl).trans (congrArg _ (s.acquire_release .hascredit _))

/-- Settles O37: the checks pass, there is credit, and the control frame is sent. -/
theorem txctlResult : Obligations.TxctlResult := by
  intro s body st rest hl hc h16 hroom hlen ha size frame
  have hf : sendPasses s.cfg (.txctl body) = true := by simp [sendPasses, h16, hroom, hlen]
  exact (exec_transmit_gains hl hf (.inl ⟨body, rfl⟩) (.of_hasCredit hc ha _)).trans
    (congrArg _ (State.ends_of_trace rfl))

/-- Settles O38: the checks pass, there is credit, and the data frame is sent. -/
theorem txdataResult : Obligations.TxdataResult := by
  intro s iface frame st rest hl hc hiface h1 hlen ha size sent
  have hf : sendPasses s.cfg (.txdata iface frame) = true := by simp [sendPasses, hiface, h1, hlen]
  exact (exec_transmit_gains hl hf (.inr ⟨iface, frame, rfl⟩) (.of_hasCredit hc ha _)).trans
    (congrArg _ (State.ends_of_trace rfl))

/-- Settles O40: the credit wait uses up its rounds, and its error ends the instruction. -/
theorem creditTimeout : Obligations.CreditTimeout := by
  intro i s as rest hl hf hn ha before after hr hc
  rw [← State.creditRounds_acquire as _ i] at hr
  have hwait := waitCredit_timeout (rest := rest) hr (by simpa [before] using hn) (by simpa [before] using ha)
  rw [State.foldl_creditRound_acquire] at hwait
  obtain ⟨ph, hw⟩ := hwait hc
  refine ⟨?_, (State.foldl_creditRound_seq _ _).trans (s.prepared_seq i)⟩
  exact (exec_waitCredit_error hl hf hw).trans (congrArg _ (State.acquire_at_release _ _ _ _ _))

/-- Settles O41: the rounds bring credit, the frame is sent, and an ioctl operation's response wait brings the response. -/
theorem creditArrives : Obligations.CreditArrives := by
  intro i s as st rest hl hf hn before after hr hc
  refine ⟨(State.foldl_creditRound_seq _ _).trans (s.prepared_seq i),
    fun hi ha => exec_transmit_gains hl hf hi ⟨hr, hn, hc, ha⟩, ?_⟩
  intro bs q hi ha hbs hrounds hq hid answered status
  have hcfg : (after.transmitted st i).cfg = s.cfg := by simp [after, before]
  have hids : (after.transmitted st i).ioctlId = s.ioctlId + 1 := by
    rw [State.transmitted_ioctlId, State.foldl_creditRound_ioctlId, s.prepared_ioctlId hi]
  obtain ⟨ph, hex⟩ := exec_ioctl_gains hl hi ⟨hr, hn, hc, ha⟩
  rw [← hcfg] at hbs hq
  rw [← hcfg, ← hids] at hid
  have hwait := awaitResponseFor_running_answered (i := i) (rest := rest) hrounds hbs ph hq hid
  rw [hcfg] at hwait
  obtain ⟨hok, herr⟩ := hwait
  refine ⟨fun hs => ?_, fun hs => ?_⟩
  · obtain ⟨ph', hw⟩ := hok hs
    rw [hex, bind_run_ok hw]
    exact congrArg _ (State.acquire_at_release _ _ _ _ _)
  · obtain ⟨ph', hw⟩ := herr hs
    rw [hex, bind_run_error hw]
    exact congrArg _ (State.acquire_at_release _ _ _ _ _)

/-- Settles O48: there is credit, the request is sent, and the response wait uses up its rounds. -/
theorem ioctlTimeout : Obligations.IoctlTimeout := by
  intro i s st as rest hl hc hn hf hr ha after
  have hcfg : (s.asked st i).cfg = s.cfg := by simp [State.asked]
  obtain ⟨ph, hex⟩ := exec_ioctl_credit hl hf hc ha
  obtain ⟨ph', hw⟩ := awaitResponseFor_running_timeout (i := i) (rest := rest) hr ph
  rw [hcfg, hn] at hw
  refine ⟨?_, ?_, ?_⟩
  · rw [hex, bind_run_error hw]
    exact congrArg _ (State.acquire_at_release _ _ _ _ _)
  · rw [State.foldl_ioctlRound_ioctlId, State.asked, State.transmitted_ioctlId, s.prepared_ioctlId hf]
  · rw [State.foldl_ioctlRound_seq]
    exact (State.transmitted_seq _ st hf).trans (by rw [s.prepared_seq])

end Sys2Proof.Machine
end

section
/-! PROOFS. What a sender consumes (spec/42_sdpcm_framer.md R206, R213; spec/43_ioctl_iovar.md R234; spec/60_exceptions.md
R305): however it ends, a sequence number is consumed exactly with a frame handed to the chip, and polls consume
nothing. -/

namespace Sys2Proof.Machine

/-! ### What is said of the counters -/

/-- From `s` to `t`, `ids` correlation IDs and `frames` sequence numbers have been consumed, and as many frames handed to
the chip. -/
structure Consumes (ids frames : Nat) (s t : State) : Prop where
  cfg : t.cfg = s.cfg
  ioctlId : t.ioctlId = s.ioctlId + BitVec.ofNat 16 ids
  seq : t.seq = s.seq + BitVec.ofNat 8 frames
  frameWrites : frameWrites s.cfg t.trace = frameWrites s.cfg s.trace + frames

/-- From `s` to `t` one frame has been sent, with credit (R206, R213). -/
structure SentWithCredit (s t : State) : Prop where
  consumes : Consumes 0 1 s t
  credit : hasCredit s.seq t.creditMax = true

/-- From `s` to `t` nothing has been consumed, or one frame sent with credit. -/
def SentAtMostOne (s t : State) : Prop := Consumes 0 0 s t ∨ SentWithCredit s t

/-- From `s` to `t` nothing has been consumed, or an ID, or an ID and then the sequence number of a frame (R234). -/
def RequestedAtMostOne (s t : State) : Prop := Consumes 0 0 s t ∨ Consumes 1 0 s t ∨ Consumes 1 1 s t

/-- A relation to the starting state that says nothing of what goes before without consuming anything, nor of the end of
the operation. -/
structure SpeaksOfCounters (R : State → State → Prop) : Prop where
  refl : ∀ s, R s s
  after : ∀ {s t u}, Consumes 0 0 s t → R t u → R s u
  release : ∀ {s t} r, R s t → R s (t.release r)

/-- Wherever `p` ends from `s`, its state satisfies `P`. -/
abbrev EndsIn {α : Type} (P : State → Prop) (p : Proc α) (s : State) : Prop := Ends p s (fun _ t => P t) (fun _ t => P t)

section
variable {α β : Type} {P : State → Prop} {R : State → State → Prop} {s t u : State}

/-! ### Counting frames -/

theorem frameWrites_concat (cfg : Config) (es : List PortEvent) (e : PortEvent) :
    frameWrites cfg (es ++ [e]) = frameWrites cfg es + if e.isFrameWrite cfg then 1 else 0 := by
  simp [frameWrites, List.countP_append, List.countP_singleton]

/-- A read hands the chip no frame. -/
theorem isFrameWrite_read (cfg : Config) (fn : FnCode) (addr : BusAddr) (n : Nat) (back : Option (List Byte)) :
    (PortEvent.xfer (ser32 cfg.wireOrder (readCommand fn addr n)) back).isFrameWrite cfg = false := by
  have hopen := openingCommand_ser32 cfg (readCommand fn addr n) []
  rw [List.append_nil] at hopen
  rw [PortEvent.isFrameWrite, hopen, readCommand, decCmd_mkcmd]
  rfl

/-- A write to the WLAN function hands the chip a frame, whether it is answered or fails (R9, R43). -/
theorem isFrameWrite_write (cfg : Config) (addr : BusAddr) (n : Nat) (tx : List Byte) (back : Option (List Byte)) :
    (PortEvent.xfer (ser32 cfg.wireOrder (writeCommand fnWlan addr n) ++ tx) back).isFrameWrite cfg = true := by
  rw [PortEvent.isFrameWrite, openingCommand_ser32, writeCommand, decCmd_mkcmd]
  rfl

theorem isFrameWrite_of_not_xfer {e : PortEvent} (cfg : Config) (h : e.isXfer = false) :
    e.isFrameWrite cfg = false := by
  cases e with
  | xfer => cases h
  | _ => rfl

/-! ### What is consumed -/

/-- A change of fields other than the counters and the trace. -/
theorem Consumes.of_frame (h : (t.cfg, t.ioctlId, t.seq, t.trace) = (s.cfg, s.ioctlId, s.seq, s.trace)) :
    Consumes 0 0 s t := by
  simp only [Prod.mk.injEq] at h
  obtain ⟨hcfg, hid, hseq, htrace⟩ := h
  exact ⟨hcfg, by simp [hid], by simp [hseq], by simp [htrace]⟩

theorem Consumes.refl : Consumes 0 0 s s := .of_frame rfl

theorem Consumes.trans {a b c d : Nat} (h : Consumes a b s t) (h' : Consumes c d t u) :
    Consumes (a + c) (b + d) s u where
  cfg := h'.cfg.trans h.cfg
  ioctlId := by rw [h'.ioctlId, h.ioctlId, BitVec.ofNat_add, BitVec.add_assoc]
  seq := by rw [h'.seq, h.seq, BitVec.ofNat_add, BitVec.add_assoc]
  frameWrites := by
    have hu := h'.frameWrites
    rw [h.cfg, h.frameWrites] at hu
    omega

/-- An event that hands the chip no frame. -/
theorem Consumes.of_event {e : PortEvent} (he : e.isFrameWrite s.cfg = false)
    (hf : (t.cfg, t.ioctlId, t.seq) = (s.cfg, s.ioctlId, s.seq)) (ht : t.trace = s.trace ++ [e]) :
    Consumes 0 0 s t := by
  simp only [Prod.mk.injEq] at hf
  obtain ⟨hcfg, hid, hseq⟩ := hf
  exact ⟨hcfg, by simp [hid], by simp [hseq], by rw [ht, frameWrites_concat, he]; rfl⟩

theorem Consumes.seq_eq {ids : Nat} (h : Consumes ids 0 s t) : t.seq = s.seq := by simpa using h.seq

theorem Consumes.ioctlId_eq {frames : Nat} (h : Consumes 0 frames s t) : t.ioctlId = s.ioctlId := by simpa using h.ioctlId

theorem Consumes.release {a b : Nat} (h : Consumes a b s t) (r : Result) : Consumes a b s (t.release r) :=
  h.trans (u := t.release r) (.of_frame rfl)

theorem Consumes.acquired (s : State) (i : Instr) : Consumes 0 0 s (s.acquire i) := .of_frame rfl

/-- A poll consumes nothing (R204, R238). -/
theorem PollMove.consumes (h : PollMove s t) : Consumes 0 0 s t := by
  cases h with
  | read fn addr n back => exact .of_event (isFrameWrite_read s.cfg fn addr n (some back)) (by simp) (by simp)
  | readFail fn addr n => exact .of_event (isFrameWrite_read s.cfg fn addr n none) (by simp) (by simp)
  | emit e he | delivered e rest he => exact .of_event (isFrameWrite_of_not_xfer _ he) rfl rfl
  | flags | store | credit => exact .of_frame rfl

theorem PollMoves.consumes (h : PollMoves s t) : Consumes 0 0 s t := by
  induction h with
  | refl => exact .refl
  | tail _ h ih => exact ih.trans h.consumes

theorem sentAtMostOne_speaksOfCounters : SpeaksOfCounters SentAtMostOne where
  refl _ := .inl .refl
  after ht hu := hu.imp ht.trans fun h => ⟨ht.trans h.consumes, ht.seq_eq ▸ h.credit⟩
  release r h := h.imp (·.release r) fun h => ⟨h.consumes.release r, h.credit⟩

theorem requestedAtMostOne_speaksOfCounters : SpeaksOfCounters RequestedAtMostOne where
  refl _ := .inl .refl
  after ht hu := hu.imp ht.trans (·.imp ht.trans ht.trans)
  release r h := h.imp (·.release r) (·.imp (·.release r) (·.release r))

/-! ### Rules -/

theorem endsIn_mono {Q : State → Prop} {p : Proc α} (h : EndsIn P p s) (hPQ : ∀ t, P t → Q t) : EndsIn Q p s :=
  Ends.mono h (fun _ => hPQ) fun _ => hPQ

theorem endsIn_bind_pure {p : Proc α} {f : α → β} (h : EndsIn P p s) : EndsIn P (p >>= fun a => pure (f a)) s :=
  Ends.bind h fun _ _ ht => ends_pure ht

theorem endsIn_guardArg {ok : Bool} {w : Argument} : EndsIn (· = s) (guardArg ok w) s := ends_guardArg (fun _ => rfl) rfl

theorem endsIn_raiseIf {c : Prop} [Decidable c] {e : Err} :
    EndsIn (· = s) (if c then raise e else pure () : Proc Unit) s := by
  split
  · exact ends_raise rfl
  · exact ends_pure rfl

/-- A check that leaves the state alone, and what follows it. -/
theorem SpeaksOfCounters.check {check : Proc Unit} {p : Unit → Proc α} (hR : SpeaksOfCounters R)
    (hc : EndsIn (· = s) check s) (hp : EndsIn (R s) (p ()) s) : EndsIn (R s) (check >>= p) s :=
  Ends.bind (hc.mono (fun _ _ h => h) fun _ _ h => h ▸ hR.refl s) fun _ _ h => h ▸ hp

/-- An operation has done what its body has done, or it has waited (R290, R291). -/
theorem SpeaksOfCounters.operation {i : Instr} {body : Proc Result} (hR : SpeaksOfCounters R)
    (h : operation i body s = .next t) (hb : EndsIn (R (s.acquire i)) body (s.acquire i)) : R s t := by
  refine operation_ends (R s) h (fun _ => hR.refl s) fun _ => hb.mono
    (fun r _ hu => hR.release r (hR.after (.acquired s i) hu)) fun e u hu => ?_
  have hsu : R s u := hR.after (.acquired s i) hu
  cases e with
  | raise e => exact hR.release _ hsu
  | stuck => exact hsu

/-! ### The senders -/

/-- What follows the header of a frame follows the consumption of its sequence number (R206). -/
theorem endsIn_buildHeader_bind {chan : Byte} {total hl : Nat} {f : SdpcmHeader → Proc α}
    (h : EndsIn P (f (txHeader s.seq chan total hl)) { s with seq := s.seq + 1 }) :
    EndsIn P (buildHeader chan total hl >>= f) s := h

/-- A write to the WLAN function from a state that differs from `s` by a consumed sequence number, there being credit:
one frame is sent, whether or not the write succeeds (R206, R209, R305). -/
theorem sendFrame_sends {frame : List Byte} (hc : hasCredit s.seq s.creditMax = true)
    (hf : (t.cfg, t.ioctlId, t.seq, t.creditMax, t.trace) = (s.cfg, s.ioctlId, s.seq + 1, s.creditMax, s.trace)) :
    EndsIn (SentWithCredit s) (sendFrame frame) t := by
  simp only [Prod.mk.injEq] at hf
  obtain ⟨hcfg, hid, hseq, hcr, htrace⟩ := hf
  have written {u : State} (back : Option (List Byte)) (hu : (u.cfg, u.ioctlId, u.seq, u.creditMax) =
        (t.cfg, t.ioctlId, t.seq, t.creditMax))
      (ht : u.trace = t.trace ++ [.xfer (ser32 t.cfg.wireOrder (writeCommand fnWlan t.cfg.wlanFifoAddr frame.length) ++
        padWords frame) back]) : SentWithCredit s u := by
    simp only [Prod.mk.injEq] at hu
    obtain ⟨hcfg', hid', hseq', hcr'⟩ := hu
    refine ⟨⟨hcfg'.trans hcfg, by simp [hid', hid], hseq'.trans hseq, ?_⟩, by rwa [hcr', hcr]⟩
    rw [ht, htrace, hcfg, frameWrites_concat, isFrameWrite_write]
    rfl
  exact ends_readState_bind (memWrite_ends (fun back _ _ => written (some back) (by simp) (by simp))
    (written none (by simp) (by simp)))

/-- What sends one frame with credit sends at most one after a credit wait (R204, R213). -/
theorem waitCredit_sends {f : Unit → Proc Unit}
    (hf : ∀ t, hasCredit t.seq t.creditMax = true → EndsIn (SentWithCredit t) (f ()) t) (s : State) :
    EndsIn (SentAtMostOne s) (waitCredit >>= f) s :=
  Ends.bind ((waitCredit_moves s).mono (fun _ _ h => h) fun _ _ h => .inl h.consumes) fun _ t ⟨hc, ht⟩ =>
    endsIn_mono (hf t hc) fun _ hu => sentAtMostOne_speaksOfCounters.after ht.consumes (.inr hu)

theorem checkControlSize_unchanged (n : Nat) (s : State) : EndsIn (· = s) (checkControlSize n) s :=
  checkControlSize_ends (fun _ _ _ => rfl) fun _ => rfl

theorem txCtl_sendsAtMostOne (body : List Byte) (s : State) : EndsIn (SentAtMostOne s) (txCtl body) s :=
  sentAtMostOne_speaksOfCounters.check (checkControlSize_unchanged _ s) (waitCredit_sends (fun _ hc =>
    endsIn_buildHeader_bind (ends_update_bind (ends_readState_bind (sendFrame_sends hc rfl)))) s)

theorem txData_sendsAtMostOne (iface : Nat) (frame : List Byte) (s : State) :
    EndsIn (SentAtMostOne s) (txData iface frame) s :=
  have counts := sentAtMostOne_speaksOfCounters
  ends_readState_bind (counts.check (ends_readState_bind endsIn_guardArg) (counts.check endsIn_guardArg
    (counts.check endsIn_guardArg (waitCredit_sends (fun _ hc => endsIn_buildHeader_bind (sendFrame_sends hc rfl)) s))))

/-! ### The ioctls -/

/-- A request takes an ID, then sends at most one frame; the response wait consumes nothing (R234, R235, R238). -/
theorem exchange_requestsAtMostOne (kind : BitVec 1) (cmd : Word) (iface : Nat) (payload : List Byte) (s : State) :
    EndsIn (RequestedAtMostOne s) (exchange kind cmd iface payload) s := by
  have numbered : Consumes 1 0 s { s with ioctlId := s.ioctlId + 1 } := ⟨rfl, rfl, by simp, rfl⟩
  have request : EndsIn (fun t => Consumes 1 0 s t ∨ Consumes 1 1 s t) (sendRequest kind cmd iface payload) s :=
    ends_update_bind (ends_readState_bind (endsIn_mono (txCtl_sendsAtMostOne _ _) fun _ h =>
      h.imp numbered.trans fun h => numbered.trans h.consumes))
  refine Ends.bind (request.mono (fun _ _ h => h) fun _ _ h => .inr h) fun _ t ht => ends_readState_bind ?_
  have polled {u : State} (hu : PollMoves t u) : RequestedAtMostOne s u :=
    .inr (ht.imp (·.trans hu.consumes) (·.trans hu.consumes))
  exact (awaitResponseFor_moves _ t).mono (fun _ _ => polled) fun _ _ => polled

theorem checkIoctlArgs_unchanged (cmd : Word) (iface n : Nat) (s : State) :
    EndsIn (· = s) (checkIoctlArgs cmd iface n) s := by
  unfold checkIoctlArgs checkInterface checkCommand
  simp only [bind_assoc]
  exact ends_readState_bind (ends_guardArg_bind (fun _ => ends_readState_bind (ends_guardArg_bind (fun _ =>
    ends_readState_bind endsIn_guardArg) rfl)) rfl)

theorem checkIoctlRoom_unchanged (n : Nat) (s : State) : EndsIn (· = s) (checkIoctlRoom n) s :=
  ends_readState_bind endsIn_raiseIf

theorem checkIovarRoom_unchanged (n : Nat) (s : State) : EndsIn (· = s) (checkIovarRoom n) s :=
  ends_readState_bind endsIn_raiseIf

theorem doIoctl_requestsAtMostOne (kind : BitVec 1) (cmd : Word) (iface : Nat) (payload : List Byte) (s : State) :
    EndsIn (RequestedAtMostOne s) (doIoctl kind cmd iface payload) s :=
  have counts := requestedAtMostOne_speaksOfCounters
  counts.check (checkIoctlArgs_unchanged _ _ _ s) (counts.check (checkIoctlRoom_unchanged _ s)
    (exchange_requestsAtMostOne _ _ _ _ s))

/-- Marshalling an iovar consumes nothing (R244). -/
theorem doIovar_requestsAtMostOne (kind : BitVec 1) (cmd : Word) (name : List Byte) (iface : Nat) (value : List Byte)
    (s : State) : EndsIn (RequestedAtMostOne s) (doIovar kind cmd name iface value) s :=
  have counts := requestedAtMostOne_speaksOfCounters
  counts.check endsIn_guardArg (counts.check (checkIovarRoom_unchanged _ s) (counts.check (checkIoctlArgs_unchanged _ _ _ s)
    (counts.check (checkIoctlRoom_unchanged _ s) (ends_update_bind
      (endsIn_mono (exchange_requestsAtMostOne _ _ _ _ _) fun _ => counts.after (.of_frame rfl))))))

end

/-! ### The obligations -/

/-- Settles O42: past the checks and the credit wait, which consume nothing, one frame is sent with its number. -/
theorem noFrameWithoutCredit : Obligations.NoFrameWithoutCredit := by
  intro i s t hi h
  have sent : SentAtMostOne s t := by
    obtain ⟨body, rfl⟩ | ⟨iface, frame, rfl⟩ := hi
    · exact sentAtMostOne_speaksOfCounters.operation h (endsIn_bind_pure (txCtl_sendsAtMostOne _ _))
    · exact sentAtMostOne_speaksOfCounters.operation h (endsIn_bind_pure (txData_sendsAtMostOne _ _ _))
  exact sent.imp (fun h => ⟨h.seq_eq, h.frameWrites⟩) fun h => ⟨h.consumes.seq, h.credit, h.consumes.frameWrites⟩

/-- Settles O49: past the checks, an ID is taken, then at most one frame sent; the response wait consumes nothing. -/
theorem requestsConsumeIds : Obligations.RequestsConsumeIds := by
  intro i s t hi h
  have counts := requestedAtMostOne_speaksOfCounters
  have requested : RequestedAtMostOne s t := by
    obtain ⟨cmd, iface, data, rfl⟩ | ⟨cmd, iface, buffer, rfl⟩ | ⟨name, iface, value, rfl⟩ | ⟨name, iface, rfl⟩ := hi
    · exact counts.operation h (endsIn_bind_pure (endsIn_bind_pure (doIoctl_requestsAtMostOne _ _ _ _ _)))
    · exact counts.operation h (endsIn_bind_pure (endsIn_bind_pure (doIoctl_requestsAtMostOne _ _ _ _ _)))
    · exact counts.operation h (endsIn_bind_pure (ends_readState_bind
        (endsIn_bind_pure (doIovar_requestsAtMostOne _ _ _ _ _ _))))
    · exact counts.operation h (endsIn_bind_pure (ends_readState_bind
        (endsIn_bind_pure (doIovar_requestsAtMostOne _ _ _ _ _ _))))
  exact requested.imp (fun h => ⟨h.ioctlId_eq, h.seq_eq, h.frameWrites⟩)
    (·.imp (fun h => ⟨h.ioctlId, h.seq_eq, h.frameWrites⟩) fun h => ⟨h.ioctlId, h.seq, h.frameWrites⟩)

end Sys2Proof.Machine
end

section
/-! PROOFS. Re-entry (spec/45_system_ops.md R291, R356; log 6): an operation submitted from inside a delivery, wherever the
delivery is made, leaves the engine stuck. -/

namespace Sys2Proof.Machine

section
variable {s u : State} {i : Instr} {as : List PollAnswers} {p : Poll} {e : PortEvent} {rest : List Answer}
  {more : List Bool} {st : Word}

/-- While the lock is held every operation waits (R291). -/
theorem exec_held (h : s.lock = true) (i : Instr) : exec i s = .next s := by
  cases i <;> exact operation_held h

/-- The state in which instruction `i` is stuck in the delivery `e` of the packet of poll `p` made in `u`. -/
def State.stuckIn (u : State) (i : Instr) (p : Poll) (e : PortEvent) (rest : List Answer) (ph : Phase)
    (more : List Bool) : State :=
  { ((u.received p).running i rest ph).emit e with reentries := more }

/-- What can be seen of the stuck state (R291, R356). -/
theorem State.stuckIn_facts (ph : Phase) :
    let t := u.stuckIn i p e rest ph more
    t.lock = true ∧ t.result = none ∧ t.reentries = more ∧ t.answers = rest ∧
      t.trace = u.trace ++ p.events u.cfg ++ [e] ∧ ∀ j : Instr, exec j t = .next t :=
  ⟨rfl, rfl, rfl, rfl, rfl, exec_held rfl⟩

/-- POLLONCE in whose delivery the host submits an operation (R276, R291). -/
theorem exec_pollonce_stuck (hl : s.lock = false) (ha : s.answers = p.answers s.cfg ++ rest)
    (hp : p.finds s.cfg = true) (hd : delivery s.cfg s.cbSet (p.packet s.cfg) = some e)
    (hm : s.reentries = true :: more) :
    ∃ ph, exec .pollonce s = .next (s.stuckIn .pollonce p e rest ph more) := by
  have hpoll : pollAndDispatch (s.acquire .pollonce) = .error .stuck
      (s.stuckIn .pollonce p e rest (Phase.tick^[(p.events s.cfg).length] (.run .pollonce 0)) more) :=
    pollAndDispatch_reentry (s := s.acquire .pollonce) ha hp hd hm
  refine ⟨Phase.tick^[(p.events s.cfg).length] (.run .pollonce 0), ?_⟩
  change operation .pollonce _ s = _
  rw [operation_free hl, returning, bind_run_error (bind_run_error hpoll), finish]

/-- An instruction that sends, in whose credit wait the host submits an operation from inside a delivery (R204, R291). -/
theorem exec_waitCredit_stuck (hl : s.lock = false) (hf : sendPasses s.cfg i = true)
    (ha : s.answers = answersOf s.cfg as ++ (p.answers s.cfg ++ rest)) (hn : as.length < s.cfg.creditRetries)
    (hr : (s.prepared i).creditRounds as = true)
    (hu : as.foldl State.creditRound (s.prepared i) = u) (hc : hasCredit u.seq u.creditMax = false)
    (hp : p.finds s.cfg = true) (hd : delivery s.cfg u.cbSet (p.packet s.cfg) = some e)
    (hm : u.reentries = true :: more) :
    ∃ ph, exec i s = .next (u.stuckIn i p e rest ph more) := by
  have hcfg := s.prepared_cfg i
  have hans := s.prepared_answers i
  have hfold : as.foldl State.creditRound ((s.prepared i).acquire i) = u.acquire i := by
    rw [State.foldl_creditRound_acquire, hu]
  rw [← hcfg] at ha hn hp hd
  rw [← State.creditRounds_acquire as _ i] at hr
  have hwait := waitCredit_stuck (rest := rest) hr hn
    (by rw [hfold]; exact hc) (hans.trans ha) hp (by rw [hfold]; exact hd) (by rw [hfold]; exact hm)
  rw [hfold] at hwait
  obtain ⟨ph, hw⟩ := hwait
  exact ⟨ph, exec_waitCredit_error hl hf hw⟩

/-- An ioctl operation, in whose response wait the host submits an operation from inside a delivery (R238, R291). -/
theorem exec_awaitResponse_stuck (hl : s.lock = false) (hf : ioctlPasses s.cfg i = true)
    (hcr : hasCredit s.seq s.creditMax = true)
    (ha : s.answers = reply s.cfg [] st :: (answersOf s.cfg as ++ (p.answers s.cfg ++ rest)))
    (hn : as.length < s.cfg.ioctlRetries) (hr : (s.asked st i).ioctlRounds as = true)
    (hu : as.foldl State.ioctlRound (s.asked st i) = u)
    (hp : p.finds s.cfg = true) (hd : delivery s.cfg u.cbSet (p.packet s.cfg) = some e)
    (hm : u.reentries = true :: more) :
    ∃ ph, exec i s = .next (u.stuckIn i p e rest ph more) := by
  have hcfg : (s.asked st i).cfg = s.cfg := by simp [State.asked]
  obtain ⟨ph, hex⟩ := exec_ioctl_credit hl hf hcr ha
  have hfold (r : List Answer) : as.foldl State.ioctlRound ((s.asked st i).running i r ph) = u.running i r ph := by
    rw [State.foldl_ioctlRound_running, hu]
  rw [← hcfg] at hp hd hn hex
  have hwait := awaitResponseFor_stuck (rest := rest)
    (s := (s.asked st i).running i (answersOf (s.asked st i).cfg as ++ (p.answers (s.asked st i).cfg ++ rest)) ph)
    ((State.ioctlRounds_running ..).trans hr) hn rfl hp
    (by rw [hfold]; exact hd) (by rw [hfold]; exact hm)
  rw [hfold] at hwait
  obtain ⟨ph', hw⟩ := hwait
  exact ⟨ph', by rw [hex, bind_run_error hw]; rfl⟩

end

/-! ### The obligation -/

/-- Settles O57: the delivery that does not return stops the operation where it is made, with the lock held. -/
theorem reentryIsStuck : Obligations.ReentryIsStuck := by
  intro i s as p e st rest more hl hp stuck
  have ended {u : State} (hcfg : u.cfg = s.cfg) (h : ∃ ph, exec i s = .next (u.stuckIn i p e rest ph more)) :
      ∃ t, exec i s = .next t ∧ t.lock = true ∧ t.result = none ∧ t.reentries = more ∧ t.answers = rest ∧
        t.trace = u.trace ++ p.events s.cfg ++ [e] ∧ ∀ j : Instr, exec j t = .next t := by
    obtain ⟨ph, h⟩ := h
    exact ⟨_, h, hcfg ▸ u.stuckIn_facts ph⟩
  refine ⟨?_, ?_, ?_⟩
  · rintro rfl ha hd hm
    exact ended rfl (exec_pollonce_stuck hl ha hp hd hm)
  · intro hf ha hn hr waiting hc hd hm
    exact ended (by simp [waiting]) (exec_waitCredit_stuck hl hf ha hn hr rfl hc hp hd hm)
  · intro hf hc ha hn hr hd hm
    exact ended (by simp [State.asked]) (exec_awaitResponse_stuck hl hf hc ha hn hr rfl hp hd hm)

end Sys2Proof.Machine
end

section
/-! PROOFS. The ioctl operations (spec/43_ioctl_iovar.md R230 to R246): the request sent with credit and the response
that ends it, at once or after one with another ID; and the checks that refuse an operation before it changes anything. -/

namespace Sys2Proof.Machine

section
variable {s : State} {i : Instr} {bs : List PollAnswers} {st : Word} {p q : Poll} {rest : List Answer}

/-! ### The response -/

theorem sendPasses_of_ioctlPasses {cfg : Config} (h : ioctlPasses cfg i = true) : sendPasses cfg i = true := by
  cases i with
  | txctl | txdata => exact absurd h Bool.false_ne_true
  | _ => exact h

/-- An ioctl operation with credit, whose response wait makes the rounds `bs` and then brings the response (R236 to
R238): the case of O41 in which the credit wait makes no rounds. -/
theorem exec_ioctl_answered (hl : s.lock = false) (hc : hasCredit s.seq s.creditMax = true)
    (hf : ioctlPasses s.cfg i = true) (hn : bs.length < s.cfg.ioctlRetries)
    (hr : (s.asked st i).ioctlRounds bs = true) (hq : q.finds s.cfg = true)
    (hid : respondsTo (s.ioctlId + 1) (q.packet s.cfg) = true)
    (ha : s.answers = reply s.cfg [] st :: (answersOf s.cfg bs ++ (q.answers s.cfg ++ rest))) :
    let answered := (bs.foldl State.ioctlRound (s.asked st i)).received q
    let status := (cdcOf (q.packet s.cfg)).status
    (status = 0 →
      exec i s = .next (answered.ends [] rest (.ok (ioctlAnswer (controlPayload (q.packet s.cfg)) i)))) ∧
    (status ≠ 0 → exec i s = .next (answered.ends [] rest (.err (.chipError status)))) := by
  have credit : hasCredit (s.prepared i).seq (s.prepared i).creditMax = true := by simpa using hc
  obtain ⟨-, -, answered⟩ :=
    creditArrives i s [] st rest hl (sendPasses_of_ioctlPasses hf) (Nat.zero_le _) rfl credit
  exact answered bs q hf ha hn hr hq hid

theorem ioctlPasses_iovar {cfg : Config} {cmd : Word} {name m : List Byte} {iface : Nat} (hname : nameFits name = true)
    (hfit : requestFits cfg cmd iface m.length = true) (hroom : m.length ≤ cfg.iovarBufSize) :
    ioctlPasses.iovarPasses cfg cmd name iface m = true := by
  simp [ioctlPasses.iovarPasses, hname, hfit, hroom]

/-! ### A control packet with another ID -/

theorem rejection_of_controlPacket {b : List Byte} (h : controlPacket b = true) : rejection b = none := by
  cases hr : rejection b with
  | none => rfl
  | some kind =>
    obtain ⟨hnot, -, -⟩ := rejection_some hr
    exact absurd (hnot.symm.trans h) Bool.false_ne_true

/-- A control packet goes to the caller and is delivered to nobody (R276). -/
theorem delivery_of_controlPacket {b : List Byte} (h : controlPacket b = true) (cfg : Config) (cbSet : Bool) :
    delivery cfg cbSet b = none := by
  simp [delivery, controlPacket_not_bdc h]

theorem packet?_of_finds {cfg : Config} (hp : p.finds cfg = true) :
    (PollAnswers.two p).packet? cfg = some (p.packet cfg) := by
  simp [PollAnswers.packet?, (Poll.finds_iff.1 hp).2]

/-- A control packet is stored and its credit taken, and no more (R266, R269). -/
theorem State.polledBy_controlPacket (hp : p.finds s.cfg = true) (hc : controlPacket (p.packet s.cfg) = true) :
    s.polledBy (.two p) = s.received p := by
  have hnone := rejection_of_controlPacket hc
  obtain ⟨hcredits, -⟩ := rejection_none hnone
  simp [State.polledBy, State.dispatched, (Poll.finds_iff.1 hp).2, hnone, hcredits, delivery_of_controlPacket hc]

/-- The round of the response wait that a response with another ID makes (R236, R238). -/
theorem State.ioctlRound_wrongId (hp : p.finds s.cfg = true) (hc : controlPacket (p.packet s.cfg) = true) :
    s.ioctlRound (.two p) =
      { s.received p with
        trace := (s.received p).trace ++ [PortEvent.log .wrongId, .sleep s.cfg.ioctlSleep] } := by
  simp [State.ioctlRound, State.polledBy_controlPacket hp hc, packet?_of_finds hp, hc]

/-- The response wait absorbs that round (R236, R238). -/
theorem State.ioctlRounds_wrongId (hp : p.finds s.cfg = true) (hc : controlPacket (p.packet s.cfg) = true)
    (hid : idOf (cdcOf (p.packet s.cfg)).flags ≠ s.ioctlId) : s.ioctlRounds [.two p] = true := by
  have fits : (PollAnswers.two p).fits s.cfg = true := (Poll.finds_iff.1 hp).1
  have waits : (PollAnswers.two p).responds s.cfg s.ioctlId = false := by
    simp [PollAnswers.responds, packet?_of_finds hp, respondsTo, hid]
  have quiet : s.reenters (.two p) = false := by
    simp [State.reenters, packet?_of_finds hp, delivery_of_controlPacket hc]
  simp [State.ioctlRounds, fits, waits, quiet]

end

/-! ### The checks of a request -/

section
variable {s : State} {kind : BitVec 1} {cmd : Word} {iface n : Nat} {name value : List Byte} {e : Err}

/-- The checks every ioctl operation makes of its request (R232, R233; log 22). -/
def checkRequest (cmd : Word) (iface n : Nat) : Proc Unit := do
  checkIoctlArgs cmd iface n
  checkIoctlRoom n

/-- IOCTLSET and IOCTLGET check their request first. -/
theorem doIoctl_eq (kind : BitVec 1) (cmd : Word) (iface : Nat) (payload : List Byte) :
    doIoctl kind cmd iface payload =
      checkRequest cmd iface payload.length >>= fun _ => exchange kind cmd iface payload := by
  simp only [doIoctl, checkRequest, bind_assoc]

/-- IOVARSET and IOVARGET check it after the name and `iovar_buf` (R244, R233). -/
theorem doIovar_eq (kind : BitVec 1) (cmd : Word) (name : List Byte) (iface : Nat) (value : List Byte) :
    doIovar kind cmd name iface value = (do
      checkName name
      checkIovarRoom (marshalIovar name value).length
      checkRequest cmd iface (marshalIovar name value).length
      update (·.storeBuffer .iovar (marshalIovar name value))
      exchange kind cmd iface (marshalIovar name value)) := by
  simp only [doIovar, checkRequest, bind_assoc]

/-- The checks of a request as one choice. -/
theorem checkRequest_run (cmd : Word) (iface n : Nat) (s : State) :
    checkRequest cmd iface n s =
      if s.cfg.ifaceMax < iface then .error (.raise (.invalidArgument .interface)) s
      else if s.cfg.cmdValid.valid cmd = false then .error (.raise (.invalidArgument .command)) s
      else if s.cfg.busMaxXfer < 28 + n then .error (.raise (.invalidArgument .length)) s
      else if s.cfg.ioctlBufSize < roundup4 (28 + n) then .error (.raise .bufferTooSmall) s
      else .ok () s := by
  have overhead : requestOverhead = 28 := rfl
  simp only [checkRequest, checkIoctlArgs, checkInterface, checkCommand, checkIoctlRoom, bind_assoc, readState_bind,
    overhead]
  split
  · next hi => exact guardArg_fail (decide_eq_false (Nat.not_le.2 hi)) _ _ _
  next hi =>
  rw [guardArg_pass (decide_eq_true (Nat.not_lt.1 hi)), readState_bind]
  split
  · next hv => exact guardArg_fail hv _ _ _
  next hv =>
  rw [guardArg_pass (Bool.not_eq_false _ ▸ hv), readState_bind]
  split
  · next hx => exact guardArg_fail (decide_eq_false (Nat.not_le.2 hx)) _ _ _
  next hx =>
  rw [guardArg_pass (decide_eq_true (Nat.not_lt.1 hx)), readState_bind]
  split <;> rfl

theorem checkRequest_interface (hi : s.cfg.ifaceMax < iface) :
    checkRequest cmd iface n s = .error (.raise (.invalidArgument .interface)) s := by
  rw [checkRequest_run, if_pos hi]

theorem checkRequest_command (hi : iface ≤ s.cfg.ifaceMax) (hv : s.cfg.cmdValid.valid cmd = false) :
    checkRequest cmd iface n s = .error (.raise (.invalidArgument .command)) s := by
  rw [checkRequest_run, if_neg (Nat.not_lt.2 hi), if_pos hv]

theorem checkRequest_length (hi : iface ≤ s.cfg.ifaceMax) (hv : s.cfg.cmdValid.valid cmd = true)
    (hx : s.cfg.busMaxXfer < 28 + n) :
    checkRequest cmd iface n s = .error (.raise (.invalidArgument .length)) s := by
  rw [checkRequest_run, if_neg (Nat.not_lt.2 hi), if_neg (by simp [hv]), if_pos hx]

theorem checkRequest_room (hi : iface ≤ s.cfg.ifaceMax) (hv : s.cfg.cmdValid.valid cmd = true)
    (hx : 28 + n ≤ s.cfg.busMaxXfer) (hb : s.cfg.ioctlBufSize < roundup4 (28 + n)) :
    checkRequest cmd iface n s = .error (.raise .bufferTooSmall) s := by
  rw [checkRequest_run, if_neg (Nat.not_lt.2 hi), if_neg (by simp [hv]), if_neg (Nat.not_lt.2 hx), if_pos hb]

/-! ### The checks of an iovar -/

theorem nameFits_eq_true_iff : nameFits name = true ↔ ¬ (name = [] ∨ 0 ∈ name) := by
  simp [nameFits]

theorem marshalIovar_length (name value : List Byte) :
    (marshalIovar name value).length = name.length + 1 + value.length := by
  rw [iovarPayload_eq, iovarPayload, List.length_append, List.length_append, List.length_singleton]

theorem checkName_pass (hn : ¬ (name = [] ∨ 0 ∈ name)) : checkName name s = .ok () s :=
  (guardArg_run _ _ _).trans (if_pos (nameFits_eq_true_iff.2 hn))

theorem doIovar_name (hn : name = [] ∨ 0 ∈ name) :
    doIovar kind cmd name iface value s = .error (.raise (.invalidArgument .name)) s := by
  have hfits : nameFits name = false := by
    rw [← Bool.not_eq_true, nameFits_eq_true_iff, not_not]
    exact hn
  exact guardArg_fail hfits _ _ _

/-- Past the name, `iovar_buf` is checked before the request (R233, R244). -/
theorem doIovar_room (hn : ¬ (name = [] ∨ 0 ∈ name)) (hm : s.cfg.iovarBufSize < (marshalIovar name value).length) :
    doIovar kind cmd name iface value s = .error (.raise .bufferTooSmall) s := by
  rw [doIovar_eq, bind_run_ok (checkName_pass hn), bind_run_error ((checkIovarRoom_run _ s).trans (if_pos hm))]

/-- Past both, an iovar fails as its request does. -/
theorem doIovar_request (hn : ¬ (name = [] ∨ 0 ∈ name))
    (hm : (marshalIovar name value).length ≤ s.cfg.iovarBufSize)
    (hc : checkRequest cmd iface (marshalIovar name value).length s = .error (.raise e) s) :
    doIovar kind cmd name iface value s = .error (.raise e) s := by
  rw [doIovar_eq, bind_run_ok (checkName_pass hn), bind_run_ok (checkIovarRoom_pass hm), bind_run_error hc]

/-! ### Refused operations -/

/-- A request that fails its checks refuses IOCTLSET and IOCTLGET (R303). -/
theorem exec_ioctl_refused {data : List Byte} (hl : s.lock = false)
    (hc : ∀ i, checkRequest cmd iface data.length (s.acquire i) = .error (.raise e) (s.acquire i)) :
    exec (.ioctlset cmd iface data) s = .next (s.ends [] s.answers (.err e)) ∧
      exec (.ioctlget cmd iface data) s = .next (s.ends [] s.answers (.err e)) := by
  have hraise (kind : BitVec 1) (i : Instr) :
      doIoctl kind cmd iface data (s.acquire i) = .error (.raise e) (s.acquire i) := by
    rw [doIoctl_eq, bind_run_error (hc i)]
  exact ⟨operation_raises hl (bind_run_error (hraise kindSet _)),
    operation_raises hl (bind_run_error (hraise kindGet _))⟩

theorem exec_iovarset_refused (hl : s.lock = false)
    (h : doIovar kindSet s.cfg.wlcSetVar name iface value (s.acquire (.iovarset name iface value)) =
      .error (.raise e) (s.acquire (.iovarset name iface value))) :
    exec (.iovarset name iface value) s = .next (s.ends [] s.answers (.err e)) :=
  operation_raises hl ((readState_bind _ _).trans (bind_run_error h))

theorem exec_iovarget_refused (hl : s.lock = false)
    (h : doIovar kindGet s.cfg.wlcGetVar name iface [] (s.acquire (.iovarget name iface)) =
      .error (.raise e) (s.acquire (.iovarget name iface))) :
    exec (.iovarget name iface) s = .next (s.ends [] s.answers (.err e)) :=
  operation_raises hl ((readState_bind _ _).trans (bind_run_error h))

end

/-! ### The obligations -/

/-- Settles O43: the operands pass the checks, and the first poll brings the response. -/
theorem ioctlResults : Obligations.IoctlResults := by
  intro s cmd iface data st p rest hl hc hn hf hp hid ha status payload n set get
  have answered {i : Instr} (hi : ioctlPasses s.cfg i = true) :=
    exec_ioctl_answered (bs := []) hl hc hi (Nat.pos_of_ne_zero hn) rfl hp hid ha
  obtain ⟨setOk, setErr⟩ := answered (i := .ioctlset cmd iface data) hf
  obtain ⟨getOk, getErr⟩ := answered (i := .ioctlget cmd iface data) hf
  exact ⟨fun h => ⟨setOk h, getOk h⟩, fun h => ⟨setErr h, getErr h⟩⟩

/-- Settles O44, as O43 from the marshalled form. -/
theorem iovarsetResult : Obligations.IovarsetResult := by
  intro s name iface value st p rest hl hc hn hname m hfit hroom hp hid ha status ended
  exact exec_ioctl_answered (i := .iovarset name iface value) (bs := []) hl hc
    (ioctlPasses_iovar hname hfit hroom) (Nat.pos_of_ne_zero hn) rfl hp hid ha

/-- Settles O45, as O44 with an empty value. -/
theorem iovargetResult : Obligations.IovargetResult := by
  intro s name iface st p rest hl hc hn hname m hfit hroom hp hid ha status ended
  have hm : m = iovarPayload name [] := (List.append_nil m).symm
  simp only [ended]
  rw [hm] at hfit hroom ⊢
  exact exec_ioctl_answered (i := .iovarget name iface) (bs := []) hl hc
    (ioctlPasses_iovar hname hfit hroom) (Nat.pos_of_ne_zero hn) rfl hp hid ha

/-- Settles O46: each clause by the check that fails, those before it having passed. -/
theorem ioctlRefusals : Obligations.IoctlRefusals := by
  intro s cmd iface data name value hl refused both
  refine ⟨fun hi => exec_ioctl_refused hl fun _ => checkRequest_interface hi,
    fun hi hv => exec_ioctl_refused hl fun _ => checkRequest_command hi hv,
    fun hi hv hx => exec_ioctl_refused hl fun _ => checkRequest_length hi hv hx,
    fun hi hv hx hb => exec_ioctl_refused hl fun _ => checkRequest_room hi hv hx hb,
    fun hn => ⟨exec_iovarset_refused hl (doIovar_name hn), exec_iovarget_refused hl (doIovar_name hn)⟩,
    fun hn => ?_⟩
  intro checked
  have iovar {kind : BitVec 1} {cmd : Word} {i : Instr} {value : List Byte}
      (hi : ∀ e, doIovar kind cmd name iface value (s.acquire i) = .error (.raise e) (s.acquire i) → refused i e) :
      checked cmd i (marshalIovar name value).length :=
    ⟨fun hm => hi _ (doIovar_room hn hm), fun hm =>
      have request {e : Err} (hc : checkRequest cmd iface (marshalIovar name value).length (s.acquire i) =
          .error (.raise e) (s.acquire i)) : refused i e := hi e (doIovar_request hn hm hc)
      ⟨fun hif => request (checkRequest_interface hif), fun hif =>
        ⟨fun hv => request (checkRequest_command hif hv), fun hv hx => request (checkRequest_length hif hv hx),
          fun hv hx hb => request (checkRequest_room hif hv hx hb)⟩⟩⟩
  have set := iovar fun e => exec_iovarset_refused (value := value) (e := e) hl
  have get := iovar fun e => exec_iovarget_refused (e := e) hl
  rw [marshalIovar_length] at set get
  exact ⟨set, get⟩

/-- Settles O47: the response with another ID makes one round of the response wait, and the next one ends it. -/
theorem ioctlWrongId : Obligations.IoctlWrongId := by
  intro i s st p q rest hl hc hn hf hp hcp hwrong hq hid hs ha dropped
  have hcfg : (s.asked st i).cfg = s.cfg := by simp [State.asked]
  have hidNow : (s.asked st i).ioctlId = s.ioctlId + 1 := by
    rw [State.asked, State.transmitted_ioctlId, s.prepared_ioctlId hf]
  have hp' : p.finds (s.asked st i).cfg = true := by rwa [hcfg]
  have hcp' : controlPacket (p.packet (s.asked st i).cfg) = true := by rwa [hcfg]
  have rounds : (s.asked st i).ioctlRounds [.two p] = true :=
    State.ioctlRounds_wrongId hp' hcp' (by rwa [hcfg, hidNow])
  have round := State.ioctlRound_wrongId hp' hcp'
  obtain ⟨answered, -⟩ := exec_ioctl_answered (bs := [.two p]) (rest := rest) hl hc hf hn rounds hq hid ha
  rw [answered hs, List.foldl_cons, List.foldl_nil, round, hcfg]

end Sys2Proof.Machine
end

section
/-! PROOFS. RXONE (spec/44_rx_dispatcher.md R264 to R272; spec/60_exceptions.md R315): the packets it rejects, check by check,
and what it answers to the others. -/

namespace Sys2Proof.Machine

section
variable {s u : State} {len : Nat} {b : List Byte} {e : Err} {kind : LogKind} {k : Packet}

/-! ### The credit of a header -/

theorem framed_iff : framed b = true ↔ 12 ≤ b.length ∧ (headerOf b).size = ~~~(headerOf b).sizeCom ∧
    12 ≤ (headerOf b).headerLength.toNat ∧ 12 ≤ (headerOf b).size.toNat ∧ (headerOf b).size.toNat ≤ b.length := by
  simp [framed, and_assoc]

theorem credits_iff : credits b = true ↔ 12 ≤ b.length ∧ (headerOf b).size = ~~~(headerOf b).sizeCom := by
  simp [credits]

theorem credits_of_framed (h : framed b = true) : credits b = true := by
  obtain ⟨hlen, hsize, -⟩ := framed_iff.1 h
  exact credits_iff.2 ⟨hlen, hsize⟩

theorem not_credits_of_length (h : b.length < 12) : ¬ credits b = true := fun hc =>
  absurd (credits_iff.1 hc).1 (Nat.not_le.2 h)

theorem not_credits_of_complement (h : (headerOf b).size ≠ ~~~(headerOf b).sizeCom) : ¬ credits b = true := fun hc =>
  h (credits_iff.1 hc).2

/-- The state once RXONE has looked at the header of `b` (R266). -/
def State.credited (s : State) (b : List Byte) : State :=
  if credits b then { s with creditMax := (headerOf b).busCredit } else s

theorem State.credited_of_credits (h : credits b = true) :
    s.credited b = { s with creditMax := (headerOf b).busCredit } := if_pos h

theorem State.credited_of_not (h : ¬ credits b = true) : s.credited b = s := if_neg h

/-! ### The checks of RXONE -/

/-- The packet `b` fails a check of RXONE, those before it having passed: the error, and what the log says of it (R264 to
R271, R276, R315). -/
inductive Rejected (b : List Byte) : Err → LogKind → Prop
  | length (h : b.length < 12) : Rejected b .shortPacket .shortPacket
  | complement (hlen : 12 ≤ b.length) (h : (headerOf b).size ≠ ~~~(headerOf b).sizeCom) :
    Rejected b .corruptHeader .corruptHeader
  | headerLength (hc : credits b = true) (h : (headerOf b).headerLength.toNat < 12) :
    Rejected b .corruptHeader .corruptHeader
  | size (hc : credits b = true) (hhl : 12 ≤ (headerOf b).headerLength.toNat)
    (h : frameSize b < 12 ∨ b.length < frameSize b) : Rejected b .shortPacket .shortPacket
  | channel (hf : framed b = true) (h : 3 ≤ (headerOf b).chanFlags.toNat % 16) :
    Rejected b (.unknownChannel ((headerOf b).chanFlags.toNat % 16)) .unknownChannel
  | cdc (hf : framed b = true) (hc : (headerOf b).chanFlags.toNat % 16 = 0) (h : frameSize b < subHeader b + 16) :
    Rejected b .shortPacket .shortPacket
  | bdc (hf : framed b = true) (hc : (headerOf b).chanFlags.toNat % 16 = 1 ∨ (headerOf b).chanFlags.toNat % 16 = 2)
    (h : frameSize b < subHeader b + 4) : Rejected b .shortPacket .shortPacket
  | payload (hf : framed b = true) (hc : (headerOf b).chanFlags.toNat % 16 = 1 ∨ (headerOf b).chanFlags.toNat % 16 = 2)
    (hsub : subHeader b + 4 ≤ frameSize b) (h : frameSize b < bdcStart b) : Rejected b .malformedBdc .malformedBdc

/-- What is left of RXONE's checks for a framed packet. -/
theorem rejection_framed (h : framed b = true) :
    rejection b =
      if 3 ≤ (headerOf b).chanFlags.toNat % 16 then some .unknownChannel
      else if frameSize b < subHeader b + (if (headerOf b).chanFlags.toNat % 16 = 0 then 16 else 4) then some .shortPacket
      else if (headerOf b).chanFlags.toNat % 16 ≠ 0 ∧ frameSize b < bdcStart b then some .malformedBdc
      else none := by
  obtain ⟨hlen, hsize, hhl, hmin, hmax⟩ := framed_iff.1 h
  rw [rejection, if_neg (by omega), if_neg (by rw [not_or, not_not]; exact ⟨hsize, by omega⟩),
    if_neg (by rw [frameSize]; omega)]

theorem Rejected.rejection_eq (h : Rejected b e kind) : rejection b = some kind := by
  cases h with
  | length h => exact if_pos h
  | complement hlen h => rw [rejection, if_neg (by omega), if_pos (.inl h)]
  | headerLength hc h =>
    obtain ⟨hlen, -⟩ := credits_iff.1 hc
    rw [rejection, if_neg (by omega), if_pos (.inr h)]
  | size hc hhl h =>
    obtain ⟨hlen, hsize⟩ := credits_iff.1 hc
    rw [rejection, if_neg (by omega), if_neg (by rw [not_or, not_not]; exact ⟨hsize, by omega⟩), if_pos h]
  | channel hf h => rw [rejection_framed hf, if_pos h]
  | cdc hf hc h => rw [rejection_framed hf, if_neg (by omega), if_pos (by rwa [if_pos hc])]
  | bdc hf hc h => rw [rejection_framed hf, if_neg (by omega), if_pos (by rwa [if_neg (by omega)])]
  | payload hf hc hsub h =>
    rw [rejection_framed hf, if_neg (by omega), if_neg (by rw [if_neg (by omega)]; omega), if_pos ⟨by omega, h⟩]

/-- RXONE on a packet it rejects (R264 to R271, R315). -/
theorem rxOne_of_rejected (hb : s.bufSlice .rx 0 len = b) (h : Rejected b e kind) :
    rxOne len s = .error (.raise e) (s.credited b) := by
  obtain ⟨e', he, hkind⟩ := rxOne_rejected hb h.rejection_eq
  cases h with
  | channel hf h =>
    rw [rxOne_framed hb hf, classify_unknown h, State.credited_of_credits (credits_of_framed hf), raise_run]
  | _ =>
    obtain rfl : e' = _ := by simpa using hkind
    exact he

/-- RXONE on an event packet with the markers (R271). -/
theorem rxOne_marked (hb : s.bufSlice .rx 0 len = b) (he : bdcPacket 1 b = true) (hm : marked s.cfg (bdcPayloadOf b)) :
    rxOne len s = .ok (.event (bdcStart b) (frameSize b - bdcStart b))
      { s with creditMax := (headerOf b).busCredit } := by
  rw [rxOne_event hb he, if_pos hm]

/-- RXONE on an event packet without them (R272). -/
theorem rxOne_unmarked (hb : s.bufSlice .rx 0 len = b) (he : bdcPacket 1 b = true)
    (hm : ¬ marked s.cfg (bdcPayloadOf b)) :
    rxOne len s = .ok (.dropped .eventInvalid) { s with creditMax := (headerOf b).busCredit } := by
  rw [rxOne_event hb he, if_neg hm]

/-! ### Running RXONE -/

/-- RXONE within the receive buffer runs the parser (R264). -/
theorem exec_rxone (hl : s.lock = false) (hlen : len ≤ s.cfg.rxBufSize) :
    exec (.rxone len) s =
      .next (finish ((rxOne len >>= fun p => pure (.ok (.packet p))) (s.acquire (.rxone len)))) := by
  have fits : decide (len ≤ (s.acquire (.rxone len)).cfg.rxBufSize) = true := decide_eq_true hlen
  change operation _ (returning (readState >>= _)) s = _
  rw [operation_free hl, returning, bind_run, readState_bind, guardArg_pass fits, bind_run, bind_run]
  cases rxOne len (s.acquire (.rxone len)) <;> rfl

theorem State.acquire_bufSlice (s : State) (i : Instr) (buf : Buffer) (a n : Nat) :
    (s.acquire i).bufSlice buf a n = s.bufSlice buf a n :=
  State.bufSlice_congr (by cases buf <;> rfl) a n

theorem exec_rxone_parsed (hl : s.lock = false) (hlen : len ≤ s.cfg.rxBufSize)
    (h : rxOne len (s.acquire (.rxone len)) = .ok k (u.acquire (.rxone len))) :
    exec (.rxone len) s = .next (u.ends [] u.answers (.ok (.packet k))) := by
  rw [exec_rxone hl hlen, bind_run_ok h]
  exact congrArg _ (u.acquire_release _ _)

theorem State.acquire_credited (s : State) (i : Instr) (b : List Byte) :
    (s.acquire i).credited b = (s.credited b).acquire i := by
  unfold State.credited
  split <;> rfl

theorem State.credited_answers (s : State) (b : List Byte) : (s.credited b).answers = s.answers := by
  unfold State.credited
  split <;> rfl

theorem exec_rxone_rejected (hl : s.lock = false) (hlen : len ≤ s.cfg.rxBufSize)
    (h : Rejected (s.bufSlice .rx 0 len) e kind) :
    exec (.rxone len) s = .next ((s.credited (s.bufSlice .rx 0 len)).ends [] s.answers (.err e)) := by
  rw [exec_rxone hl hlen, bind_run_error (rxOne_of_rejected (s.acquire_bufSlice _ .rx 0 len) h), finish,
    State.acquire_credited, State.acquire_release, State.credited_answers]

end

/-! ### The obligations -/

/-- Settles O52: the parser on a control packet. -/
theorem rxoneControl : Obligations.RxoneControl := by
  intro s len hl hlen b hc
  exact exec_rxone_parsed (u := { s with creditMax := (headerOf b).busCredit }) hl hlen
    (rxOne_control (s.acquire_bufSlice _ .rx 0 len) hc)

/-- Settles O53: the parser on a data packet, and on an event packet with and without the markers. -/
theorem rxoneDataAndEvent : Obligations.RxoneDataAndEvent := by
  intro s len hl hlen b parsed
  have hb := s.acquire_bufSlice (.rxone len) .rx 0 len
  have answers {k : Packet} (h : rxOne len (s.acquire (.rxone len)) =
      .ok k { s.acquire (.rxone len) with creditMax := (headerOf b).busCredit }) : parsed k :=
    exec_rxone_parsed (u := { s with creditMax := (headerOf b).busCredit }) hl hlen h
  exact ⟨fun hd => answers (rxOne_data hb hd), fun he hm => answers (rxOne_marked hb he hm),
    fun he hm => answers (rxOne_unmarked hb he hm)⟩

/-- Settles O54: each clause by the check that fails; a header has its credit taken if it passes the complement test. -/
theorem rxoneRejects : Obligations.RxoneRejects := by
  intro s len hl b h chan kept taken
  have hb : b.length = len := s.bufSlice_length .rx 0 len
  refine ⟨fun hlen => ?_, fun hlen => ?_⟩
  · exact operation_raises hl (guardArg_fail (decide_eq_false (Nat.not_le.2 hlen)) _ _ _)
  have keeps {e : Err} {kind : LogKind} (hc : ¬ credits b = true) (hr : Rejected b e kind) : kept e :=
    (exec_rxone_rejected hl hlen hr).trans (by rw [State.credited_of_not (by exact hc)])
  have takes {e : Err} {kind : LogKind} (hc : credits b = true) (hr : Rejected b e kind) : taken e :=
    (exec_rxone_rejected hl hlen hr).trans (by rw [State.credited_of_credits (by exact hc)])
  rw [← hb]
  have credited (h12 : 12 ≤ b.length) (hsize : h.size = ~~~h.sizeCom) : credits b = true :=
    credits_iff.2 ⟨h12, hsize⟩
  exact ⟨fun h12 => keeps (not_credits_of_length h12) (.length h12),
    fun h12 hsize => keeps (not_credits_of_complement hsize) (.complement h12 hsize),
    fun h12 hsize hhl => takes (credited h12 hsize) (.headerLength (credited h12 hsize) hhl),
    fun h12 hsize hhl hbad => takes (credited h12 hsize) (.size (credited h12 hsize) hhl hbad),
    fun hf hc => takes (credits_of_framed hf) (.channel hf hc),
    fun hf hc hsub => takes (credits_of_framed hf) (.cdc hf hc hsub),
    fun hf hc hsub => takes (credits_of_framed hf) (.bdc hf hc hsub),
    fun hf hc hsub hstart => takes (credits_of_framed hf) (.payload hf hc hsub hstart)⟩

end Sys2Proof.Machine
end

section
/-! PROOFS. BUSPOLL and POLLONCE (spec/44_rx_dispatcher.md R260 to R278; spec/60_exceptions.md R315): the polls that report no
packet, and for POLLONCE what becomes of a packet that is found: dropped, returned as an error, kept or delivered. -/

namespace Sys2Proof.Machine

section
variable {s u : State} {back : List Byte} {st : Word} {rest : List Answer} {p : Poll} {b : List Byte}
  {o : PollOutcome} {why : Transient} {e : Err} {kind : LogKind} {ev : PortEvent}

/-! ### Polls that report no packet -/

/-- The interrupt-status value announces no packet (R261). -/
theorem busPoll_idle (ha : s.answers = reply s.cfg back st :: rest)
    (hback : back.length = readLength fnBus s.cfg.intStatusWidth) (hs : (decStatus s.cfg st).dataNa = false)
    (hirq : irqValue s.cfg back &&& s.cfg.irqF2PacketAvailable = 0) :
    busPoll s = .ok (.noPacket .nothing) (s.irqRead back st rest) := by
  rw [busPoll_irq ha hback hs, if_neg (by simp [irqHas, hirq])]

/-- The interrupt-status value announces a packet: step 2 is left to do (R261). -/
theorem busPoll_pending (ha : s.answers = reply s.cfg back st :: rest)
    (hback : back.length = readLength fnBus s.cfg.intStatusWidth) (hs : (decStatus s.cfg st).dataNa = false)
    (hirq : irqValue s.cfg back &&& s.cfg.irqF2PacketAvailable ≠ 0) :
    busPoll s = fetchPacket (s.irqRead back st rest) := by
  exact (busPoll_irq ha hback hs).trans (if_pos (bne_iff_ne.2 hirq))

theorem fetchPacket_notReady (h : (decStatus u.cfg u.lastStatus).f2Ready = false) :
    fetchPacket u = .ok (.noPacket .f2NotReady) u := by
  rw [fetchPacket_early (.inl h), if_pos h]

theorem fetchPacket_nothing (hready : (decStatus u.cfg u.lastStatus).f2Ready = true)
    (h : (decStatus u.cfg u.lastStatus).pktAvail = false ∨ (decStatus u.cfg u.lastStatus).pktLen = 0) :
    fetchPacket u = .ok (.noPacket .nothing) u := by
  rw [fetchPacket_early (.inr (by tauto)), if_neg (by simp [hready]), if_pos h]

theorem fetchPacket_tooLong (hready : (decStatus u.cfg u.lastStatus).f2Ready = true)
    (havail : (decStatus u.cfg u.lastStatus).pktAvail = true) (hlen : (decStatus u.cfg u.lastStatus).pktLen ≠ 0)
    (h : u.cfg.busMaxXfer < (decStatus u.cfg u.lastStatus).pktLen ∨
      u.cfg.rxBufSize < (decStatus u.cfg u.lastStatus).pktLen) :
    fetchPacket u = .error (.raise .bufferTooSmall) (u.emit (.log .bufferTooSmall)) := by
  have hr : receivable u.cfg (decStatus u.cfg u.lastStatus).pktLen = false := by
    simpa [receivable, imp_iff_not_or] using h
  rw [fetchPacket_early (.inr (.inr (.inr hr))), if_neg (by simp [hready]), if_neg (by simp [havail, hlen])]

/-! ### How the operations end -/

/-- The end of an operation that has made the interrupt-status read alone. -/
theorem State.irqRead_release (s : State) (i : Instr) (back : List Byte) (st : Word) (rest : List Answer) (r : Result) :
    ((s.acquire i).irqRead back st rest).release r = (s.afterQuiet back st).ends [] rest r :=
  State.acquire_at_release (s.afterQuiet back st) i rest _ r

theorem exec_buspoll_noPacket (hl : s.lock = false) (h : busPoll (s.acquire .buspoll) = .ok (.noPacket why) u) :
    exec .buspoll s = .next (u.release (.noPacket why)) := by
  change operation .buspoll _ s = _
  rw [operation_free hl, bind_run_ok h]
  rfl

theorem exec_buspoll_error (hl : s.lock = false) (h : busPoll (s.acquire .buspoll) = .error (.raise e) u) :
    exec .buspoll s = .next (u.release (.err e)) := by
  change operation .buspoll _ s = _
  rw [operation_free hl, bind_run_error h, finish]

/-- What POLLONCE answers (R278). -/
def PollOutcome.answer : PollOutcome → Result
  | .noPacket _ => .ok (.bool false)
  | .packet (.dropped _) => .ok (.bool false)
  | .packet _ => .ok (.bool true)
  | .err e => .err e

theorem exec_pollonce (hl : s.lock = false) (h : pollAndDispatch (s.acquire .pollonce) = .ok o u) :
    exec .pollonce s = .next (u.release o.answer) := by
  change operation .pollonce _ s = _
  rw [operation_free hl, returning, bind_run, bind_run_ok h]
  cases o with
  | packet k => cases k <;> rfl
  | _ => rfl

/-! ### Packets POLLONCE rejects -/

/-- What PollAndDispatch makes of an error of the parser (R276). -/
def rejectedOutcome : Err → PollOutcome
  | .corruptHeader => .packet (.dropped .corruptHeader)
  | .malformedBdc => .packet (.dropped .malformedBdc)
  | e => .err e

/-- A poll that finds a packet the parser rejects (R264 to R271, R276). -/
theorem pollAndDispatch_of_rejected (ha : s.answers = p.answers s.cfg ++ rest) (hf : p.finds s.cfg = true)
    (h : Rejected (p.packet s.cfg) e kind) :
    pollAndDispatch s =
      .ok (rejectedOutcome e) (((s.pollDone p rest).credited (p.packet s.cfg)).emit (.log kind)) := by
  rw [pollAndDispatch_rejected (busPoll_finds ha hf) (rxOne_of_rejected (pollDone_bufSlice hf rest) h)]
  cases h <;> rfl

theorem exec_pollonce_rejected (hl : s.lock = false) (ha : s.answers = p.answers s.cfg ++ rest)
    (hf : p.finds s.cfg = true) (h : Rejected (p.packet s.cfg) e kind) :
    exec .pollonce s = .next
      (((s.afterPoll p).credited (p.packet s.cfg)).ends [.log kind] rest (rejectedOutcome e).answer) := by
  rw [exec_pollonce hl (pollAndDispatch_of_rejected (s := s.acquire .pollonce) ha hf h), State.acquire_cfg]
  unfold State.credited
  split <;> rfl

/-! ### Packets POLLONCE keeps, delivers or drops -/

theorem rejection_of_bdcPacket {chan : Nat} (hc : chan = 1 ∨ chan = 2) (h : bdcPacket chan b = true) :
    rejection b = none := by
  cases hr : rejection b with
  | none => rfl
  | some kind =>
    obtain ⟨-, hevent, hdata⟩ := rejection_some hr
    rcases hc with rfl | rfl
    · exact absurd (hevent.symm.trans h) Bool.false_ne_true
    · exact absurd (hdata.symm.trans h) Bool.false_ne_true

theorem parsedAs_of_controlPacket (h : controlPacket b = true) (cfg : Config) :
    parsedAs cfg b = .control (subHeader b + 16) (frameSize b - (subHeader b + 16)) (cdcOf b) := if_pos h

theorem parsedAs_of_data (h : bdcPacket 2 b = true) (cfg : Config) :
    parsedAs cfg b = .data (bdcStart b) (frameSize b - bdcStart b) := by
  simp [parsedAs, bdcPacket_not_control h, h]

theorem parsedAs_of_event (h : bdcPacket 1 b = true) (cfg : Config) :
    parsedAs cfg b =
      if marked cfg (bdcPayloadOf b) then .event (bdcStart b) (frameSize b - bdcStart b) else .dropped .eventInvalid := by
  simp [parsedAs, bdcPacket_not_control h, bdcPacket_other h]

theorem delivery_of_data (h : bdcPacket 2 b = true) (cfg : Config) (cbSet : Bool) :
    delivery cfg cbSet b = if cbSet then some (.deliverEth (bdcPayloadOf b)) else none := by
  simp [delivery, h, bdcPacket_other h]

theorem delivery_of_event (h : bdcPacket 1 b = true) (cfg : Config) (cbSet : Bool) :
    delivery cfg cbSet b = if marked cfg (bdcPayloadOf b) then some (.deliverEvt (bdcPayloadOf b)) else none := by
  simp [delivery, h, bdcPacket_other h]

/-- POLLONCE on a packet that is delivered to nobody (R276, R278). -/
theorem exec_pollonce_undelivered (hl : s.lock = false) (ha : s.answers = p.answers s.cfg ++ rest)
    (hf : p.finds s.cfg = true) (hr : rejection (p.packet s.cfg) = none)
    (hd : delivery s.cfg s.cbSet (p.packet s.cfg) = none) :
    exec .pollonce s = .next
      ((s.received p).ends [] rest (PollOutcome.packet (parsedAs s.cfg (p.packet s.cfg))).answer) := by
  have found := pollAndDispatch_found (s := s.acquire .pollonce) ha hf hr
  simp only [State.acquire_cfg, State.acquire_cbSet, hd] at found
  exact (exec_pollonce hl found).trans (congrArg _ (State.acquire_at_release (s.received p) _ _ _ _))

/-- POLLONCE on a packet that is delivered, the delivery returning (R276, R278). -/
theorem exec_pollonce_delivered (hl : s.lock = false) (ha : s.answers = p.answers s.cfg ++ rest)
    (hf : p.finds s.cfg = true) (hr : rejection (p.packet s.cfg) = none) (hre : s.reentries = [])
    (hd : delivery s.cfg s.cbSet (p.packet s.cfg) = some ev) :
    exec .pollonce s = .next
      ((s.received p).ends [ev] rest (PollOutcome.packet (parsedAs s.cfg (p.packet s.cfg))).answer) := by
  have found := pollAndDispatch_found (s := s.acquire .pollonce) ha hf hr
  simp only [State.acquire_cfg, State.acquire_cbSet, hd] at found
  have returns (ph : Phase) := deliver_returns (s := ((s.acquire .pollonce).received p).at rest ph) hre ev
  exact exec_pollonce hl (found.trans (bind_run_ok (returns _)))

end

/-! ### The obligations -/

/-- Settles O51: the poll inside BUSPOLL, by the first test that reports no packet. -/
theorem buspollNoPacket : Obligations.BuspollNoPacket := by
  refine ⟨?_, ?_⟩
  · intro s back st rest hl hback ha view polled
    refine ⟨fun hna => exec_buspoll_noPacket hl (busPoll_unavailable (s := s.acquire .buspoll) ha hback hna),
      fun hna => ?_⟩
    have quiet {why : Transient} (h : busPoll (s.acquire .buspoll) =
        .ok (.noPacket why) ((s.acquire .buspoll).irqRead back st rest)) : polled (.noPacket why) [] :=
      (exec_buspoll_noPacket hl h).trans (congrArg _ (s.irqRead_release _ _ _ _ _))
    refine ⟨fun hirq => quiet (busPoll_idle ha hback hna hirq), fun hirq => ?_⟩
    have pending := busPoll_pending (s := s.acquire .buspoll) ha hback hna hirq
    exact ⟨fun hready => quiet (pending.trans (fetchPacket_notReady hready)),
      fun hready h => quiet (pending.trans (fetchPacket_nothing hready h)),
      fun hready havail hlen h => exec_buspoll_error hl (pending.trans (fetchPacket_tooLong hready havail hlen h))⟩
  · intro s p rest hl hr hs ha
    exact ⟨(exec_buspoll_noPacket hl (busPoll_lost (s := s.acquire .buspoll) ha hr hs)).trans
      (congrArg _ (State.acquire_at_release (s.afterLost p) _ _ _ _)), rfl⟩

/-- Settles O55: the packet is kept, and delivered if its channel and the callback ask for it. -/
theorem pollonceDelivers : Obligations.PollonceDelivers := by
  intro s p rest hl hf ha hre b polled
  refine ⟨fun hc => ?_, fun hd hcb => ?_, fun hd hcb => ?_, fun he hm => ?_⟩
  · have h := exec_pollonce_undelivered hl ha hf (rejection_of_controlPacket hc) (delivery_of_controlPacket hc _ _)
    rwa [parsedAs_of_controlPacket hc] at h
  · have h := exec_pollonce_delivered hl ha hf (rejection_of_bdcPacket (.inr rfl) hd) hre
      ((delivery_of_data hd _ _).trans (if_pos hcb))
    rwa [parsedAs_of_data hd] at h
  · have h := exec_pollonce_undelivered hl ha hf (rejection_of_bdcPacket (.inr rfl) hd)
      ((delivery_of_data hd _ _).trans (if_neg (by simp [hcb])))
    rwa [parsedAs_of_data hd] at h
  · have h := exec_pollonce_delivered hl ha hf (rejection_of_bdcPacket (.inl rfl) he) hre
      ((delivery_of_event he _ _).trans (if_pos hm))
    rwa [parsedAs_of_event he, if_pos hm] at h

/-- Settles O56: polls without a packet as in O51, rejected packets by the check that fails, and the invalid event. -/
theorem pollonceDrops : Obligations.PollonceDrops := by
  refine ⟨?_, ?_, ?_⟩
  · intro s back st rest hl hback ha view polled
    refine ⟨fun hna => exec_pollonce hl (pollAndDispatch_noPacket
      (busPoll_unavailable (s := s.acquire .pollonce) ha hback hna)), fun hna => ?_⟩
    have quiet {why : Transient} (h : busPoll (s.acquire .pollonce) =
        .ok (.noPacket why) ((s.acquire .pollonce).irqRead back st rest)) : polled [] (.ok (.bool false)) :=
      (exec_pollonce hl (pollAndDispatch_noPacket h)).trans (congrArg _ (s.irqRead_release _ _ _ _ _))
    refine ⟨fun hirq => quiet (busPoll_idle ha hback hna hirq), fun hirq => ?_⟩
    have pending := busPoll_pending (s := s.acquire .pollonce) ha hback hna hirq
    exact ⟨fun hready => quiet (pending.trans (fetchPacket_notReady hready)),
      fun hready h => quiet (pending.trans (fetchPacket_nothing hready h)),
      fun hready havail hlen h => exec_pollonce hl
        (pollAndDispatch_error (pending.trans (fetchPacket_tooLong hready havail hlen h)))⟩
  · intro s p rest hl hr hs ha
    exact (exec_pollonce hl (pollAndDispatch_noPacket (busPoll_lost (s := s.acquire .pollonce) ha hr hs))).trans
      (congrArg _ (State.acquire_at_release (s.afterLost p) _ _ _ _))
  intro s p rest hl hf ha b h chan polled short corrupt
  have kept {e : Err} {kind : LogKind} (hc : ¬ credits b = true) (hr : Rejected b e kind) :
      polled (s.afterPoll p) [.log kind] (rejectedOutcome e).answer :=
    (exec_pollonce_rejected hl ha hf hr).trans (by rw [State.credited_of_not (by exact hc)])
  have taken {e : Err} {kind : LogKind} (hc : credits b = true) (hr : Rejected b e kind) :
      polled (s.received p) [.log kind] (rejectedOutcome e).answer :=
    (exec_pollonce_rejected hl ha hf hr).trans (by rw [State.credited_of_credits (by exact hc)]; rfl)
  refine ⟨fun h12 => kept (not_credits_of_length h12) (.length h12),
    fun h12 hsize => kept (not_credits_of_complement hsize) (.complement h12 hsize),
    fun h12 hsize => ?_, fun hframe => ?_, fun he hm => ?_⟩
  · have credited : credits b = true := credits_iff.2 ⟨h12, hsize⟩
    exact ⟨fun hhl => taken credited (.headerLength credited hhl),
      fun hhl hbad => taken credited (.size credited hhl hbad)⟩
  · have credited := credits_of_framed hframe
    exact ⟨fun hc => taken credited (.channel hframe hc), fun hc hsub => taken credited (.cdc hframe hc hsub),
      fun hc => ⟨fun hsub => taken credited (.bdc hframe hc hsub),
        fun hsub hstart => taken credited (.payload hframe hc hsub hstart)⟩⟩
  · have dropped := exec_pollonce_undelivered hl ha hf (rejection_of_bdcPacket (.inl rfl) he)
      ((delivery_of_event he _ _).trans (if_neg hm))
    rwa [parsedAs_of_event he, if_neg hm] at dropped

end Sys2Proof.Machine
end

section
/-! PROOFS. The SDPCM rows run as receptions (spec/44_rx_dispatcher.md R262 to R272; log 11, 14), and SETCB (R279). -/

namespace Sys2Proof.Machine

section
variable {s : State} {i : Instr} {form : SdpcmForm} {chan : BitVec 4} {rest : List Byte} {k : Packet}

/-! ### The frame of a row -/

/-- The frame of a row with channel `chan` (R112). -/
abbrev rowFrame (form : SdpcmForm) (chan : BitVec 4) (rest : List Byte) : List Byte :=
  encSdpcm (form.header chan) ++ rest

theorem headerOf_row (form : SdpcmForm) (chan : BitVec 4) (rest : List Byte) :
    headerOf (rowFrame form chan rest) = form.header chan := decSdpcm_encSdpcm _ _

theorem row_channel (form : SdpcmForm) (chan : BitVec 4) (rest : List Byte) :
    (headerOf (rowFrame form chan rest)).chanFlags.toNat % 16 = chan.toNat := by
  rw [headerOf_row, ← sdpcmChannel_toNat, sdpcmChannel_header]

/-- The state of a running row once its frame is in `rx_buf` (R262). -/
abbrev State.holding (s : State) (i : Instr) (b : List Byte) : State := (s.acquire i).storeBuffer .rx b

/-- What a row has written once its frame `b` is stored and the credit of its header taken (R262, R266). -/
abbrev State.rowReceived (s : State) (b : List Byte) (credit : Byte) : State :=
  { s with rxBuf := Memory.write s.rxBuf 0 b, creditMax := credit }

/-! ### Running a row -/

/-- A row whose frame fits a transfer and the receive buffer stores it and runs the parser on it (R262, R264). -/
theorem operation_receiveFrame (hl : s.lock = false) (hx : 12 + rest.length ≤ s.cfg.busMaxXfer)
    (hr : 12 + rest.length ≤ s.cfg.rxBufSize) (form : SdpcmForm) (chan : BitVec 4) :
    operation i (returning (receiveFrame (form.header chan) rest)) s =
      .next (finish ((rxOne (rowFrame form chan rest).length >>= fun p => pure (.ok (.packet p)))
        (s.holding i (rowFrame form chan rest)))) := by
  have fits : rxTooLong (s.acquire i).cfg (rowFrame form chan rest).length = false := by
    simp [rxTooLong, Nat.not_lt.2 hx, Nat.not_lt.2 hr]
  rw [operation_free hl, returning, bind_run, receiveFrame, readState_bind, fits, if_neg Bool.false_ne_true, update_bind,
    bind_run, bind_run]
  cases rxOne (rowFrame form chan rest).length (s.holding i (rowFrame form chan rest)) <;> rfl

/-- A row whose frame parses to a packet (R269 to R272). -/
theorem row_parsed (hl : s.lock = false) (hx : 12 + rest.length ≤ s.cfg.busMaxXfer)
    (hr : 12 + rest.length ≤ s.cfg.rxBufSize)
    (h : rxOne (rowFrame form chan rest).length (s.holding i (rowFrame form chan rest)) =
      .ok k { s.holding i (rowFrame form chan rest) with
        creditMax := (headerOf (rowFrame form chan rest)).busCredit }) :
    operation i (returning (receiveFrame (form.header chan) rest)) s =
      .next ((s.rowReceived (rowFrame form chan rest) form.busCredit).ends [] s.answers (.ok (.packet k))) := by
  rw [operation_receiveFrame hl hx hr, bind_run_ok h, headerOf_row]
  exact congrArg _ (State.acquire_release (s.rowReceived _ form.busCredit) i _)

/-- A row of an unknown channel with a sound header (R268). -/
theorem row_unknown (hl : s.lock = false) (hx : 12 + rest.length ≤ s.cfg.busMaxXfer)
    (hr : 12 + rest.length ≤ s.cfg.rxBufSize) (hc : 3 ≤ chan.toNat)
    (hf : framed (rowFrame form chan rest) = true) :
    operation i (returning (receiveFrame (form.header chan) rest)) s =
      .next ((s.rowReceived (rowFrame form chan rest) form.busCredit).ends [] s.answers
        (.err (.unknownChannel chan.toNat))) := by
  have channel := row_channel form chan rest
  have hrx := rxOne_of_rejected (s := s.holding i (rowFrame form chan rest))
    (State.bufSlice_storeBuffer _ _ _) (.channel hf (channel.symm ▸ hc))
  rw [State.credited_of_credits (credits_of_framed hf), headerOf_row] at hrx
  rw [operation_receiveFrame hl hx hr, bind_run_error hrx, ← channel, headerOf_row]
  exact congrArg _ (State.acquire_release (s.rowReceived _ form.busCredit) i _)

end

/-! ### The obligations -/

/-- Settles O58: the frame that a row stores is the packet the parser reads. -/
theorem sdpcmRowsReceive : Obligations.SdpcmRowsReceive := by
  intro s form rest hl hx hr frame parsed
  have stored (i : Instr) (chan : BitVec 4) :
      (s.holding i (frame chan)).bufSlice .rx 0 (frame chan).length = frame chan := State.bufSlice_storeBuffer _ _ _
  exact ⟨fun hc => row_parsed hl hx hr (rxOne_control (stored _ _) hc),
    fun he hm => row_parsed hl hx hr (rxOne_marked (stored _ _) he hm),
    fun he hm => row_parsed hl hx hr (rxOne_unmarked (stored _ _) he hm),
    fun hd => row_parsed hl hx hr (rxOne_data (stored _ _) hd)⟩

/-- Settles O59: the rows differ in the channel's number alone. -/
theorem sdpcmUnknownRows : Obligations.SdpcmUnknownRows := by
  intro s form rest hl hx hr rejected
  have row (i : Instr) (chan : BitVec 4) (hc : 3 ≤ chan.toNat) := row_unknown (i := i) (form := form) hl hx hr hc
  exact ⟨row _ 3 (by decide), row _ 4 (by decide), row _ 5 (by decide), row _ 6 (by decide), row _ 7 (by decide),
    row _ 8 (by decide), row _ 9 (by decide), row _ 10 (by decide), row _ 11 (by decide), row _ 12 (by decide),
    row _ 13 (by decide), row _ 14 (by decide), row _ 15 (by decide)⟩

/-- Settles O18: SETCB's one write, between its acquire and its release. -/
theorem setcbResult : Obligations.SetcbResult := fun s present hl =>
  (operation_free hl).trans (congrArg _ (State.acquire_release { s with cbSet := present } (.setcb present) _))

end Sys2Proof.Machine
end

section
/-! PROOFS. RESET, admission and the end of every operation (spec/45_system_ops.md R290 to R293): a procedure is stuck only
in a delivery from which the host submits an operation (R291, R356), so every operation of a host that submits none ends. -/

namespace Sys2Proof.Machine

/-! ### Procedures that end -/

/-- The host submits nothing from inside the coming deliveries (R291, R356). -/
def State.SubmitsNothing (s : State) : Prop := ∀ b ∈ s.reentries, b = false

/-- If the host submits nothing from inside a delivery, `p` answers or raises an error, and so will what follows it. -/
def NeverStuck {α : Type} (p : Proc α) : Prop :=
  ∀ s : State, s.SubmitsNothing →
    Ends p s (fun _ t => t.SubmitsNothing) (fun e t => e ≠ .stuck ∧ t.SubmitsNothing)

section
variable {α β : Type}

theorem State.SubmitsNothing.of_eq {s t : State} (h : s.SubmitsNothing) (ht : t.reentries = s.reentries) :
    t.SubmitsNothing := by rwa [State.SubmitsNothing, ht]

/-! ### Rules -/

theorem neverStuck_pure (a : α) : NeverStuck (pure a) := fun _ h => ends_pure h

theorem neverStuck_raise (e : Err) : NeverStuck (raise e : Proc α) := fun _ h => ends_raise ⟨nofun, h⟩

theorem neverStuck_guardArg (ok : Bool) (w : Argument) : NeverStuck (guardArg ok w) :=
  fun _ h => ends_guardArg (fun _ => h) ⟨nofun, h⟩

theorem neverStuck_update {f : State → State} (hf : ∀ s, (f s).reentries = s.reentries) : NeverStuck (update f) :=
  fun s h => ends_update (h.of_eq (hf s))

theorem neverStuck_bind {p : Proc α} {f : α → Proc β} (hp : NeverStuck p) (hf : ∀ a, NeverStuck (f a)) :
    NeverStuck (p >>= f) := fun s h => Ends.bind (hp s h) hf

theorem neverStuck_readState_bind {f : State → Proc β} (hf : ∀ s, NeverStuck (f s)) :
    NeverStuck (readState >>= f) := fun s h => ends_readState_bind (hf s s h)

theorem neverStuck_ite {c : Prop} [Decidable c] {p q : Proc α} (hp : NeverStuck p) (hq : NeverStuck q) :
    NeverStuck (if c then p else q) := by
  split
  · exact hp
  · exact hq

/-- A check that raises an error, and what follows it. -/
theorem neverStuck_raiseIf {c : Prop} [Decidable c] {e : Err} {p : Proc α} (hp : NeverStuck p) :
    NeverStuck (if c then raise e >>= fun _ : Unit => p else p) :=
  neverStuck_ite (neverStuck_bind (neverStuck_raise e) fun _ => hp) hp

theorem neverStuck_attempt {p : Proc α} (hp : NeverStuck p) : NeverStuck (attempt p) :=
  fun s h => ends_attempt ((hp s h).mono (fun _ _ ht => ht) fun e _ ⟨he, ht⟩ => by
    cases e with
    | raise e => exact ht
    | stuck => exact absurd rfl he)

/-- The one place where a procedure can be stuck: the host's next choice is to submit nothing (R291). -/
theorem neverStuck_deliver (e : PortEvent) : NeverStuck (deliver e) := by
  intro s h
  unfold Ends
  rcases hr : s.reentries with _ | ⟨b, rest⟩
  · rw [deliver_returns hr]
    exact h.of_eq rfl
  · obtain ⟨rfl, hrest⟩ := List.forall_mem_cons.1 (hr ▸ h : ∀ c ∈ b :: rest, c = false)
    rw [deliver_returns_cons hr]
    exact hrest

/-! ### The bus primitives -/

theorem memRead_neverStuck (fn : FnCode) (addr : BusAddr) (n : Nat) : NeverStuck (memRead fn addr n) :=
  fun _ h => memRead_ends (fun _ _ _ _ _ => h.of_eq (by simp)) (fun _ _ _ => ⟨nofun, h.of_eq (by simp)⟩)
    ⟨nofun, h.of_eq (by simp)⟩

theorem memWrite_neverStuck (fn : FnCode) (addr : BusAddr) (d : List Byte) : NeverStuck (memWrite fn addr d) :=
  fun _ h => memWrite_ends (fun _ _ _ => h.of_eq (by simp)) ⟨nofun, h.of_eq (by simp)⟩

theorem log_neverStuck (k : LogKind) : NeverStuck (log k) := neverStuck_update fun _ => rfl

theorem sleep_neverStuck (d : Nat) : NeverStuck (sleep d) := neverStuck_update fun _ => rfl

theorem storeBuffer_neverStuck (b : Buffer) (bs : List Byte) : NeverStuck (update (·.storeBuffer b bs)) :=
  neverStuck_update fun _ => by cases b <;> rfl

/-! ### The receive path -/

theorem tryRead_neverStuck (fn : FnCode) (addr : BusAddr) (n : Nat) : NeverStuck (tryRead fn addr n) := by
  refine neverStuck_bind (neverStuck_attempt (memRead_neverStuck fn addr n)) fun a => ?_
  split
  · exact neverStuck_pure _
  · exact neverStuck_pure _
  · exact neverStuck_raise _

theorem rejectTooLong_neverStuck : NeverStuck (rejectTooLong : Proc α) :=
  neverStuck_bind (log_neverStuck _) fun _ => neverStuck_raise _

theorem fetchPacket_neverStuck : NeverStuck fetchPacket := by
  refine neverStuck_readState_bind fun _ => neverStuck_ite (neverStuck_pure _) (neverStuck_ite (neverStuck_pure _)
    (neverStuck_ite rejectTooLong_neverStuck (neverStuck_bind (tryRead_neverStuck _ _ _) ?_)))
  rintro (_ | d)
  · exact neverStuck_pure _
  · exact neverStuck_bind (storeBuffer_neverStuck _ _) fun _ => neverStuck_pure _

theorem busPoll_neverStuck : NeverStuck busPoll := by
  refine neverStuck_readState_bind fun s => neverStuck_bind (tryRead_neverStuck _ _ _) ?_
  rintro (_ | d)
  · exact neverStuck_pure _
  · have packet : NeverStuck (if irqHas (leValue d) s.cfg.irqF2PacketAvailable then fetchPacket
        else pure (.noPacket .nothing)) := neverStuck_ite fetchPacket_neverStuck (neverStuck_pure _)
    exact neverStuck_bind (neverStuck_update fun _ => rfl) fun _ =>
      neverStuck_ite (neverStuck_bind (log_neverStuck _) fun _ => packet) packet

theorem classify_neverStuck (h : SdpcmHeader) (b : List Byte) : NeverStuck (classify h b) := by
  have payload : NeverStuck (bdcPayload h b) :=
    neverStuck_ite (neverStuck_raise _) (neverStuck_ite (neverStuck_raise _) (neverStuck_pure _))
  unfold classify
  split
  · exact neverStuck_ite (neverStuck_raise _) (neverStuck_pure _)
  · exact neverStuck_bind payload fun _ => neverStuck_readState_bind fun _ =>
      neverStuck_ite (neverStuck_pure _) (neverStuck_pure _)
  · exact neverStuck_bind payload fun _ => neverStuck_pure _
  · exact neverStuck_raise _

theorem rxOne_neverStuck (len : Nat) : NeverStuck (rxOne len) :=
  neverStuck_readState_bind fun _ => neverStuck_raiseIf (neverStuck_raiseIf (neverStuck_bind
    (neverStuck_update fun _ => rfl) fun _ => neverStuck_raiseIf (neverStuck_raiseIf (classify_neverStuck _ _))))

theorem route_neverStuck (p : Packet) : NeverStuck (route p) := by
  refine neverStuck_readState_bind fun s => ?_
  cases p with
  | control | dropped => exact neverStuck_pure _
  | data off n => exact neverStuck_ite (neverStuck_deliver _) (neverStuck_pure _)
  | event off n => exact neverStuck_deliver _

theorem pollAndDispatch_neverStuck : NeverStuck pollAndDispatch := by
  refine neverStuck_bind (neverStuck_attempt busPoll_neverStuck) ?_
  rintro (e | why | len)
  · exact neverStuck_pure _
  · exact neverStuck_pure _
  · have logged (k : LogKind) (o : PollOutcome) : NeverStuck (log k >>= fun _ => pure o) :=
      neverStuck_bind (log_neverStuck k) fun _ => neverStuck_pure o
    refine neverStuck_bind (neverStuck_attempt (rxOne_neverStuck len)) fun a => ?_
    split
    · next p => exact neverStuck_bind (route_neverStuck p) fun _ => neverStuck_pure _
    · exact logged _ _
    · exact logged _ _
    · exact logged _ _
    · exact logged _ _
    · exact neverStuck_pure _

/-! ### The senders -/

theorem waitCreditFor_neverStuck (n : Nat) : NeverStuck (waitCreditFor n) := by
  induction n with
  | zero => exact neverStuck_readState_bind fun _ => neverStuck_ite (neverStuck_pure _) (neverStuck_raise _)
  | succ n ih =>
    refine neverStuck_readState_bind fun s => neverStuck_ite (neverStuck_pure _)
      (neverStuck_bind pollAndDispatch_neverStuck fun a => ?_)
    split
    · exact neverStuck_raise _
    · exact neverStuck_bind (sleep_neverStuck _) fun _ => ih

/-- A header, and what follows it. -/
theorem neverStuck_buildHeader_bind {chan : Byte} {total hl : Nat} {f : SdpcmHeader → Proc α}
    (hf : ∀ h, NeverStuck (f h)) : NeverStuck (buildHeader chan total hl >>= f) :=
  neverStuck_bind (neverStuck_readState_bind fun _ => neverStuck_bind (neverStuck_update fun _ => rfl) fun _ =>
    neverStuck_pure _) hf

theorem waitCredit_neverStuck : NeverStuck waitCredit := neverStuck_readState_bind fun _ => waitCreditFor_neverStuck _

theorem sendFrame_neverStuck (frame : List Byte) : NeverStuck (sendFrame frame) :=
  neverStuck_readState_bind fun _ => memWrite_neverStuck _ _ _

theorem checkControlSize_neverStuck (n : Nat) : NeverStuck (checkControlSize n) :=
  neverStuck_readState_bind fun _ => neverStuck_raiseIf (neverStuck_guardArg _ _)

theorem txCtl_neverStuck (body : List Byte) : NeverStuck (txCtl body) :=
  neverStuck_bind (checkControlSize_neverStuck _) fun _ => neverStuck_bind waitCredit_neverStuck fun _ =>
    neverStuck_buildHeader_bind fun _ => neverStuck_bind (storeBuffer_neverStuck _ _) fun _ =>
    neverStuck_readState_bind fun _ => sendFrame_neverStuck _

theorem checkInterface_neverStuck (iface : Nat) : NeverStuck (checkInterface iface) :=
  neverStuck_readState_bind fun _ => neverStuck_guardArg _ _

theorem txData_neverStuck (iface : Nat) (frame : List Byte) : NeverStuck (txData iface frame) :=
  neverStuck_readState_bind fun _ => neverStuck_bind (checkInterface_neverStuck _) fun _ =>
    neverStuck_bind (neverStuck_guardArg _ _) fun _ => neverStuck_bind (neverStuck_guardArg _ _) fun _ =>
    neverStuck_bind waitCredit_neverStuck fun _ => neverStuck_buildHeader_bind fun _ => sendFrame_neverStuck _

/-! ### The ioctls -/

theorem correlate_neverStuck (c : CdcHeader) : NeverStuck (correlate c) :=
  neverStuck_readState_bind fun _ => neverStuck_ite (neverStuck_ite (neverStuck_pure _) (neverStuck_raise _))
    (neverStuck_bind (log_neverStuck _) fun _ => neverStuck_pure _)

theorem pollResponse_neverStuck : NeverStuck pollResponse := by
  refine neverStuck_bind pollAndDispatch_neverStuck fun a => ?_
  split
  · exact neverStuck_raise _
  · exact neverStuck_bind (correlate_neverStuck _) fun _ =>
      neverStuck_ite (neverStuck_readState_bind fun _ => neverStuck_pure _) (neverStuck_pure _)
  · exact neverStuck_pure _

theorem awaitResponseFor_neverStuck (n : Nat) : NeverStuck (awaitResponseFor n) := by
  induction n with
  | zero => exact neverStuck_raise _
  | succ n ih =>
    refine neverStuck_bind pollResponse_neverStuck ?_
    rintro (_ | payload)
    · exact neverStuck_readState_bind fun _ => neverStuck_bind (sleep_neverStuck _) fun _ => ih
    · exact neverStuck_pure _

theorem exchange_neverStuck (kind : BitVec 1) (cmd : Word) (iface : Nat) (payload : List Byte) :
    NeverStuck (exchange kind cmd iface payload) :=
  neverStuck_bind (neverStuck_bind (neverStuck_update fun _ => rfl) fun _ =>
    neverStuck_readState_bind fun _ => txCtl_neverStuck _) fun _ =>
    neverStuck_readState_bind fun _ => awaitResponseFor_neverStuck _

theorem checkIoctlArgs_neverStuck (cmd : Word) (iface n : Nat) : NeverStuck (checkIoctlArgs cmd iface n) :=
  neverStuck_bind (checkInterface_neverStuck _) fun _ => neverStuck_bind
    (neverStuck_readState_bind fun _ => neverStuck_guardArg _ _) fun _ =>
    neverStuck_readState_bind fun _ => neverStuck_guardArg _ _

theorem checkIoctlRoom_neverStuck (n : Nat) : NeverStuck (checkIoctlRoom n) :=
  neverStuck_readState_bind fun _ => neverStuck_ite (neverStuck_raise _) (neverStuck_pure _)

theorem checkIovarRoom_neverStuck (n : Nat) : NeverStuck (checkIovarRoom n) :=
  neverStuck_readState_bind fun _ => neverStuck_ite (neverStuck_raise _) (neverStuck_pure _)

theorem doIoctl_neverStuck (kind : BitVec 1) (cmd : Word) (iface : Nat) (payload : List Byte) :
    NeverStuck (doIoctl kind cmd iface payload) :=
  neverStuck_bind (checkIoctlArgs_neverStuck _ _ _) fun _ => neverStuck_bind (checkIoctlRoom_neverStuck _) fun _ =>
    exchange_neverStuck _ _ _ _

theorem doIovar_neverStuck (kind : BitVec 1) (cmd : Word) (name : List Byte) (iface : Nat) (value : List Byte) :
    NeverStuck (doIovar kind cmd name iface value) :=
  neverStuck_bind (neverStuck_guardArg _ _) fun _ => neverStuck_bind (checkIovarRoom_neverStuck _) fun _ =>
    neverStuck_bind (checkIoctlArgs_neverStuck _ _ _) fun _ => neverStuck_bind (checkIoctlRoom_neverStuck _) fun _ =>
    neverStuck_bind (storeBuffer_neverStuck _ _) fun _ => exchange_neverStuck _ _ _ _

/-! ### The window -/

theorem setWindow_neverStuck (a : Word) : NeverStuck (setWindow a) := by
  have sel (e : State) (w : Word) (reg : BusAddr) (k : Nat) : NeverStuck (writeSelector e w reg k) :=
    neverStuck_ite (memWrite_neverStuck _ _ _) (neverStuck_pure _)
  exact neverStuck_readState_bind fun s => neverStuck_bind
    (fun u hu => ends_invalidating (neverStuck_bind (sel _ _ _ _)
      (fun _ => neverStuck_bind (sel _ _ _ _) fun _ => sel _ _ _ _) u hu))
    fun _ => neverStuck_update fun _ => rfl

/-! ### The operations -/

theorem checkRegister_neverStuck (fn : Byte) (addr : Word) (size : Nat) : NeverStuck (checkRegister fn addr size) :=
  neverStuck_bind (neverStuck_guardArg _ _) fun _ => neverStuck_bind (neverStuck_guardArg _ _) fun _ =>
    neverStuck_guardArg _ _

theorem checkBlock_neverStuck (fn : Byte) (addr : Word) (n : Nat) : NeverStuck (checkBlock fn addr n) :=
  neverStuck_bind (neverStuck_guardArg _ _) fun _ => neverStuck_bind (neverStuck_guardArg _ _) fun _ =>
    neverStuck_readState_bind fun _ => neverStuck_guardArg _ _

/-- The checks of a backplane register, SETWIN, and what follows them (R185, R186). -/
theorem neverStuck_registerWindow_bind {addr : Word} {size : Nat} {f : Unit → Proc α} (hf : ∀ a, NeverStuck (f a)) :
    NeverStuck (checkBackplaneRegister addr size >>= fun _ => setWindow addr >>= f) :=
  neverStuck_bind (neverStuck_bind (neverStuck_guardArg _ _) fun _ => neverStuck_guardArg _ _) fun _ =>
    neverStuck_bind (setWindow_neverStuck _) hf

/-- The checks of a backplane block, SETWIN, and what follows them (R188, R189). -/
theorem neverStuck_blockWindow_bind {addr : Word} {n : Nat} {f : Unit → Proc α} (hf : ∀ a, NeverStuck (f a)) :
    NeverStuck (checkBackplaneBlock addr n >>= fun _ => setWindow addr >>= f) :=
  neverStuck_bind (neverStuck_readState_bind fun _ => neverStuck_bind (neverStuck_guardArg _ _) fun _ =>
    neverStuck_guardArg _ _) fun _ => neverStuck_bind (setWindow_neverStuck _) hf

/-- A read that answers a value of its bytes. -/
theorem neverStuck_memRead_value (fn : FnCode) (addr : BusAddr) (n : Nat) (f : List Byte → Value) :
    NeverStuck (memRead fn addr n >>= fun d => pure (f d)) :=
  neverStuck_bind (memRead_neverStuck _ _ _) fun _ => neverStuck_pure _

theorem checkCommandWord_neverStuck (autoinc : Bool) (fn : FnCode) (len : LenField) :
    NeverStuck (checkCommandWord autoinc fn len) :=
  neverStuck_bind (neverStuck_guardArg _ _) fun _ => neverStuck_bind (neverStuck_guardArg _ _) fun _ =>
    neverStuck_guardArg _ _

theorem runRead_neverStuck (autoinc : Bool) (fn : FnCode) (addr : BusAddr) (len : LenField) :
    NeverStuck (runRead autoinc fn addr len) :=
  neverStuck_bind (checkCommandWord_neverStuck _ _ _) fun _ => neverStuck_memRead_value _ _ _ _

theorem runWrite_neverStuck (autoinc : Bool) (fn : FnCode) (addr : BusAddr) (len : LenField) (data : List Byte) :
    NeverStuck (runWrite autoinc fn addr len data) :=
  neverStuck_bind (checkCommandWord_neverStuck _ _ _) fun _ => memWrite_neverStuck _ _ _

theorem receiveFrame_neverStuck (h : SdpcmHeader) (rest : List Byte) : NeverStuck (receiveFrame h rest) :=
  neverStuck_readState_bind fun _ => neverStuck_ite rejectTooLong_neverStuck (neverStuck_bind
    (storeBuffer_neverStuck _ _) fun _ => neverStuck_bind (rxOne_neverStuck _) fun _ => neverStuck_pure _)

end

/-- Every instruction is an operation, acquire, body and release, whose body is stuck only if the host
submits from inside a delivery (R290, R291). -/
theorem exec_isOperation (i : Instr) : ∃ body, NeverStuck body ∧ exec i = operation i body := by
  have value {body : Proc Value} (hi : exec i = operation i (returning body)) (hb : NeverStuck body) :
      ∃ body, NeverStuck body ∧ exec i = operation i body := ⟨_, neverStuck_bind hb fun _ => neverStuck_pure _, hi⟩
  have unit {body : Proc Unit} (hi : exec i = operation i (returningUnit body)) (hb : NeverStuck body) :
      ∃ body, NeverStuck body ∧ exec i = operation i body := ⟨_, neverStuck_bind hb fun _ => neverStuck_pure _, hi⟩
  cases i with
  | rdreg =>
    exact value rfl (neverStuck_bind (checkRegister_neverStuck _ _ _) fun _ => neverStuck_memRead_value _ _ _ _)
  | wrreg => exact unit rfl (neverStuck_bind (checkRegister_neverStuck _ _ _) fun _ => memWrite_neverStuck _ _ _)
  | rdbytes =>
    exact value rfl (neverStuck_bind (checkBlock_neverStuck _ _ _) fun _ => neverStuck_memRead_value _ _ _ _)
  | wrbytes => exact unit rfl (neverStuck_bind (checkBlock_neverStuck _ _ _) fun _ => memWrite_neverStuck _ _ _)
  | setwin => exact unit rfl (setWindow_neverStuck _)
  | bprd =>
    exact value rfl (neverStuck_registerWindow_bind fun _ => neverStuck_readState_bind fun _ =>
      neverStuck_memRead_value _ _ _ _)
  | bpwr =>
    exact unit rfl (neverStuck_registerWindow_bind fun _ => neverStuck_readState_bind fun _ =>
      memWrite_neverStuck _ _ _)
  | bprdbytes => exact value rfl (neverStuck_blockWindow_bind fun _ => neverStuck_memRead_value _ _ _ _)
  | bpwrbytes => exact unit rfl (neverStuck_blockWindow_bind fun _ => memWrite_neverStuck _ _ _)
  | hascredit => exact value rfl (neverStuck_readState_bind fun _ => neverStuck_pure _)
  | txctl => exact unit rfl (txCtl_neverStuck _)
  | txdata => exact unit rfl (txData_neverStuck _ _)
  | ioctlset => exact unit rfl (neverStuck_bind (doIoctl_neverStuck _ _ _ _) fun _ => neverStuck_pure _)
  | ioctlget => exact value rfl (neverStuck_bind (doIoctl_neverStuck _ _ _ _) fun _ => neverStuck_pure _)
  | iovarset =>
    exact unit rfl (neverStuck_readState_bind fun _ => neverStuck_bind (doIovar_neverStuck _ _ _ _ _) fun _ =>
      neverStuck_pure _)
  | iovarget =>
    exact value rfl (neverStuck_readState_bind fun _ => neverStuck_bind (doIovar_neverStuck _ _ _ _ _) fun _ =>
      neverStuck_pure _)
  | buspoll =>
    refine ⟨_, neverStuck_bind busPoll_neverStuck fun a => ?_, rfl⟩
    cases a <;> exact neverStuck_pure _
  | rxone =>
    exact value rfl (neverStuck_readState_bind fun _ => neverStuck_bind (neverStuck_guardArg _ _) fun _ =>
      neverStuck_bind (rxOne_neverStuck _) fun _ => neverStuck_pure _)
  | pollonce =>
    refine value rfl (neverStuck_bind pollAndDispatch_neverStuck fun a => ?_)
    split
    · exact neverStuck_pure _
    · exact neverStuck_pure _
    · exact neverStuck_pure _
    · exact neverStuck_raise _
  | setcb | reset => exact unit rfl (neverStuck_update fun _ => rfl)
  | cmdRdBus | cmdRdBp | cmdRdWlan | cmdRdReserved => exact value rfl (runRead_neverStuck _ _ _ _)
  | cmdWrBus | cmdWrBp | cmdWrWlan | cmdWrReserved => exact unit rfl (runWrite_neverStuck _ _ _ _ _)
  | status =>
    exact value rfl (neverStuck_bind (neverStuck_update fun _ => rfl) fun _ => neverStuck_readState_bind fun _ =>
      neverStuck_pure _)
  | cdcGet | cdcSet | bdc => exact value rfl (neverStuck_pure _)
  | _ => exact value rfl (receiveFrame_neverStuck _ _)

/-- An operation whose body is never stuck releases the lock with a result (R292). -/
theorem NeverStuck.operation_releases {i : Instr} {body : Proc Result} {s : State} (hb : NeverStuck body)
    (hl : s.lock = false) (hs : s.SubmitsNothing) : ∃ (u : State) (r : Result),
      operation i body s = .next (u.release r) := by
  have ended := hb (s.acquire i) hs
  unfold Ends at ended
  rw [operation_free hl]
  rcases hp : body (s.acquire i) with ⟨r, u⟩ | ⟨_ | _, u⟩
  · exact ⟨u, r, rfl⟩
  · exact ⟨u, _, rfl⟩
  · rw [hp] at ended
    exact absurd rfl ended.1

/-! ### The obligations -/

/-- Settles O8: every instruction is an operation whose body is not stuck, and such an operation releases the lock. -/
theorem operationsReleaseTheLock : Obligations.OperationsReleaseTheLock := by
  intro i s hl hs
  obtain ⟨body, hb, hi⟩ := exec_isOperation i
  obtain ⟨u, r, hu⟩ := hb.operation_releases (i := i) hl hs
  exact ⟨u.release r, r, hi ▸ hu, rfl, rfl, rfl⟩

/-- Settles O5: what the decoder answers is what a step fetches and runs. -/
theorem stepRunsDecoded : Obligations.StepRunsDecoded := by
  intro s r rest i hc hl hr hd
  have fetched : fetch s = .instr i { s with requests := rest } := by simp [fetch, hc, hl, hr, hd]
  rw [step, fetched]

/-- Settles O7: every instruction is an operation, which waits for the lock, and so does a step's fetch. -/
theorem lockHeldWaits : Obligations.LockHeldWaits := by
  refine ⟨fun i s hl => ?_, fun s hc hl => ?_⟩
  · obtain ⟨body, -, hi⟩ := exec_isOperation i
    exact hi ▸ operation_held hl
  · have fetched : fetch s = .waiting := by simp [fetch, hc, hl]
    rw [step, fetched]

/-- Settles O17: the writes of RESET, between its acquire and its release. -/
theorem resetOperation : Obligations.ResetOperation := fun s hl =>
  (operation_free hl).trans (congrArg _ (s.zeroed.acquire_release .reset _))

end Sys2Proof.Machine
end
